-- ==== Sys2Proof/Word.lean ====
section
/-! DEFINITION. Names for the widths and numbers of the Othran LC6 (00_scope.md, Key Parameters). -/

namespace Sys2Proof

/-- A byte of a frame. -/
abbrev Byte := BitVec 8

/-- A result word, an inspect word, an agent address or the tick counter: 32 bits (R25, R86, R65). -/
abbrev Word := BitVec 32

/-- An agent port, P0 to P5. -/
abbrev PortId := Fin 6

/-- A hardware lock, L0 to L63. -/
abbrev LockId := Fin 64

/-- A window, W0 to W15. -/
abbrev WindowId := Fin 16

/-- A request tag, 0 to 15. -/
abbrev Tag := Fin 16

end Sys2Proof
end

