-- ==== Sys2Proof/Syntax.lean ====
section
/-! DEFINITION. The commands: one constructor for each row of spec/opcode_table.json. -/

namespace Sys2Proof

/-- The blocks that hand fault reports to the fault unit: R163, "from the agent ports, the lock unit and the memory
port". -/
inductive FaultSource where
  | port (p : PortId)
  | lockUnit
  | memPort
deriving DecidableEq, Repr

/-- How the memory side reports a completion (R145). -/
inductive MemResult where
  | ok
  | fail
deriving DecidableEq, Repr

/-- The commands. Parameters of supervisor commands have the widths of Table 11-3; fields of a REQUEST frame those of
Table 7-2. -/
inductive Instr where
  /-- POWER_ON (R161, R173): the level of RESET# at power-on and the straps sampled. -/
  | powerOn (resetHigh : Bool) (straps : BitVec 3)
  /-- RESET_ASSERT (R161): RESET# goes low; the straps as sampled then. -/
  | resetAssert (straps : BitVec 3)
  /-- RESET_RELEASE (R161, R173): RESET# returns high; the straps as sampled last before that. -/
  | resetRelease (straps : BitVec 3)
  /-- OPEN (R120): a good OPEN frame is taken. -/
  | openFrame (p : PortId)
  /-- CLOSE (R121): a good CLOSE frame is taken. -/
  | closeFrame (p : PortId)
  /-- REQUEST (R124, R125): a good REQUEST frame is taken. -/
  | request (p : PortId) (kind : BitVec 4) (tag : Tag) (sizeCode : Byte) (addr : Word) (data : List Byte)
  /-- BAD_FRAME (R122): a bad frame is taken. -/
  | badFrame (p : PortId)
  /-- LINK_SILENCE (R123): 64 µs without received signal. -/
  | linkSilence (p : PortId)
  /-- FRAME_SENT (R133): the last byte of the oldest frame of the send list is sent. -/
  | frameSent (p : PortId)
  /-- ACQUIRE_EXCLUSIVE (R16, R17): the operation the port handed on is taken at the lock. -/
  | acquireExclusive (p : PortId)
  /-- ACQUIRE_SHARED (R16, R17). -/
  | acquireShared (p : PortId)
  /-- TRY_EXCLUSIVE (R16, R17). -/
  | tryExclusive (p : PortId)
  /-- TRY_SHARED (R16, R17). -/
  | tryShared (p : PortId)
  /-- INSPECT (R19). -/
  | inspect (p : PortId)
  /-- RELEASE (R20 to R22). -/
  | release (p : PortId)
  /-- RELEASE_LATEST (R23). -/
  | releaseLatest (p : PortId)
  /-- WITHDRAW (R24, R40). -/
  | withdraw (p : PortId)
  /-- MISUSE_ACCESS (R13). -/
  | misuseAccess (p : PortId)
  /-- LOCK_CLOCK_TICK (R67): a tick period ends. -/
  | lockClockTick
  /-- TICK_CLAIM (R67): a tick claim is taken at one lock record. -/
  | tickClaim (l : LockId)
  /-- LEASE_EXPIRY (R69). -/
  | leaseExpiry (l : LockId)
  /-- WAIT_TIMEOUT (R39): the timeout of the record of port `p` in the queue of `l`. -/
  | waitTimeout (l : LockId) (p : PortId)
  /-- ISSUE_DECISION (R141). -/
  | issueDecision
  /-- ISSUE (R142). -/
  | issue
  /-- INCREMENT_CLAIM (R143). -/
  | incrementClaim
  /-- ISSUE_SLOT_FREED (R142). -/
  | issueSlotFreed
  /-- MEM_COMPLETION (R145): a completion of the link session `session` with its result and data. -/
  | memCompletion (session : Nat) (result : MemResult) (data : List Byte)
  /-- PORT_GONE_CLAIM (R154). -/
  | portGoneClaim (p : PortId)
  /-- FAULT_REPORT (R163): the oldest report of `src` is taken. -/
  | faultReport (src : FaultSource)
  /-- BAD_COMMAND_FRAME (R174): the bytes after the address byte. -/
  | badCommandFrame (bytes : List Byte)
  /-- COMMAND_WRITE_NAK (R175). -/
  | commandWriteNak
  /-- SET_CLOCK (R66, R178). -/
  | setClock (period : BitVec 16)
  /-- SET_PORT (R135, R178). -/
  | setPort (port enable cls : Byte) (waitLimit : BitVec 16)
  /-- SET_WEIGHT (R140, R178). -/
  | setWeight (k : Byte)
  /-- DEFINE_WINDOW (R89, R90). -/
  | defineWindow (window : Byte) (base pages : BitVec 32) (kind lockRef writePolicy readPolicy : Byte)
  /-- ENABLE_WINDOW (R91). -/
  | enableWindow (window : Byte)
  /-- DISABLE_WINDOW (R93, R94). -/
  | disableWindow (window : Byte)
  /-- READ_WINDOW (R95). -/
  | readWindow (window : Byte)
  /-- DEFINE_LOCK (R4, R180). -/
  | defineLock (lock level : Byte) (lease : BitVec 16) (leasePolicy orphanPolicy : Byte)
  /-- UNDEFINE_LOCK (R5). -/
  | undefineLock (lock : Byte)
  /-- FORCE_RELEASE (R78). -/
  | forceRelease (lock : Byte)
  /-- REPAIR_LOCK (R160). -/
  | repairLock (lock : Byte)
  /-- RESET_PORT (R151, R181). -/
  | resetPort (port : Byte)
  /-- SNAPSHOT_LOCK (R182, R183). -/
  | snapshotLock (lock : Byte)
  /-- SNAPSHOT_PORT (R182, R184). -/
  | snapshotPort (port : Byte)
  /-- READ_SNAPSHOT (R182). -/
  | readSnapshot
  /-- READ_FAULT (R167). -/
  | readFault
  /-- READ_ALERT (R172). -/
  | readAlert
  /-- SET_ALERT_MASK (R169). -/
  | setAlertMask (classes : BitVec 16)
  /-- CLEAR_ALERT (R170). -/
  | clearAlert (classes : BitVec 16)
  /-- READ_STATUS (R186). -/
  | readStatus
deriving DecidableEq, Repr

end Sys2Proof
end

