-- ==== Sys2Proof/Decode.lean ====
section
/-! DEFINITION. Bytes and commands: the byte order, the check byte of the agent link (R118), agent frames (Table 7-2) and
supervisor command frames (Table 11-3) read into commands and written from them, and the table's own words (none). -/

namespace Sys2Proof

/-! ### Byte order: lowest-order byte first (R25, R118, Table 11-1) -/

/-- The two bytes of a 16-bit field. -/
def bytes16 (x : BitVec 16) : List Byte := [x.extractLsb' 0 8, x.extractLsb' 8 8]

/-- The four bytes of a 32-bit field. -/
def bytes32 (x : BitVec 32) : List Byte :=
  [x.extractLsb' 0 8, x.extractLsb' 8 8, x.extractLsb' 16 8, x.extractLsb' 24 8]

/-- The 16-bit field of two bytes. -/
def field16 (b0 b1 : Byte) : BitVec 16 := b1 ++ b0

/-- The 32-bit field of four bytes. -/
def field32 (b0 b1 b2 b3 : Byte) : BitVec 32 := b3 ++ b2 ++ b1 ++ b0

/-- A count or number as one byte. -/
def byteOf (n : Nat) : Byte := BitVec.ofNat 8 n

/-! ### The check byte (R118) -/

/-- One bit of the cyclic check: shift left, and add x^8 + x^2 + x + 1 when a bit falls out. -/
def crcShift (c : Byte) : Byte := if c.msb then (c <<< 1) ^^^ 0x07#8 else c <<< 1

/-- One byte of the check, most significant bit first. -/
def crcByte (c b : Byte) : Byte :=
  crcShift (crcShift (crcShift (crcShift (crcShift (crcShift (crcShift (crcShift (c ^^^ b))))))))

/-- The check code over the bytes of a frame in order, starting value 0 (R118). -/
def crc8 (bs : List Byte) : Byte := bs.foldl crcByte 0

/-- The bytes of a frame with the check byte behind them. -/
def withCheck (bs : List Byte) : List Byte := bs ++ [crc8 bs]

/-! ### Agent frames (Table 7-2) -/

/-- The bytes of a size code: 0 to 4 (Table 7-2). -/
def sizeBytes (code : Byte) : Option Nat :=
  match code.toNat with
  | 0 => some 4
  | 1 => some 8
  | 2 => some 16
  | 3 => some 32
  | 4 => some 64
  | _ => none

/-- Whether a REQUEST has the length Table 7-2 gives. R118: "For a REQUEST, the length is checked only when the kind is
READ or WRITE and the size code is 0 to 4." -/
def requestLengthGood (kind : BitVec 4) (sizeCode : Byte) (data : List Byte) : Bool :=
  match sizeBytes sizeCode with
  | none => true
  | some n => if kind = 1#4 then data.isEmpty else if kind = 2#4 then data.length == n else true

/-- The command an agent frame on port `p` spells: a good frame by its type, any other a bad frame (R118). -/
def linkFrame (p : PortId) (frame : List Byte) : Instr :=
  if frame.getLast? = some (crc8 frame.dropLast) then
    match frame.dropLast with
    | [t] => if t = 0x11#8 then .openFrame p else if t = 0x12#8 then .closeFrame p else .badFrame p
    | t :: b1 :: size :: a0 :: a1 :: a2 :: a3 :: data =>
      if t = 0x10#8 ∧ requestLengthGood (b1.extractLsb' 4 4) size data = true then
        .request p (b1.extractLsb' 4 4) (b1.extractLsb' 0 4).toFin size (field32 a0 a1 a2 a3) data
      else .badFrame p
    | _ => .badFrame p
  else .badFrame p

/-- The bytes of a REQUEST frame. -/
def requestFrame (kind : BitVec 4) (tag : Tag) (sizeCode : Byte) (addr : Word) (data : List Byte) : List Byte :=
  withCheck (0x10#8 :: (kind ++ BitVec.ofFin (w := 4) tag) :: sizeCode :: (bytes32 addr ++ data))

/-- The bytes an agent sends for a link command; none for a command that is no good agent frame. -/
def agentFrame (c : Instr) : Option (List Byte) :=
  match c with
  | .openFrame _ => some (withCheck [0x11#8])
  | .closeFrame _ => some (withCheck [0x12#8])
  | .request _ kind tag size addr data => some (requestFrame kind tag size addr data)
  | _ => none

/-! ### Supervisor command frames (Tables 11-1 and 11-3) -/

/-- The parameter length of an opcode (Table 11-3); none for a byte that is no opcode. -/
def parameterLength (opcode : Byte) : Option Nat :=
  match opcode.toNat with
  | 0x01 => some 2
  | 0x02 => some 5
  | 0x03 => some 1
  | 0x10 => some 13
  | 0x11 => some 1
  | 0x12 => some 1
  | 0x13 => some 1
  | 0x20 => some 6
  | 0x21 => some 1
  | 0x22 => some 1
  | 0x23 => some 1
  | 0x30 => some 1
  | 0x40 => some 1
  | 0x41 => some 1
  | 0x42 => some 0
  | 0x50 => some 0
  | 0x51 => some 0
  | 0x52 => some 2
  | 0x53 => some 2
  | 0x60 => some 0
  | _ => none

/-- R174's checks of a frame's form, on the bytes after the address byte. -/
def commandFormGood (bytes : List Byte) : Bool :=
  match bytes with
  | op :: n :: ps => ps.length == n.toNat && parameterLength op == some n.toNat
  | _ => false

/-- The command of an opcode and its parameters (Table 11-3); none where the frame's form is not right. -/
def commandOfParameters (op : Byte) (ps : List Byte) : Option Instr :=
  match op.toNat, ps with
  | 0x01, [a, b] => some (.setClock (field16 a b))
  | 0x02, [p, e, c, a, b] => some (.setPort p e c (field16 a b))
  | 0x03, [k] => some (.setWeight k)
  | 0x10, [w, b0, b1, b2, b3, p0, p1, p2, p3, kind, lock, wp, rp] =>
    some (.defineWindow w (field32 b0 b1 b2 b3) (field32 p0 p1 p2 p3) kind lock wp rp)
  | 0x11, [w] => some (.enableWindow w)
  | 0x12, [w] => some (.disableWindow w)
  | 0x13, [w] => some (.readWindow w)
  | 0x20, [l, level, a, b, lp, orp] => some (.defineLock l level (field16 a b) lp orp)
  | 0x21, [l] => some (.undefineLock l)
  | 0x22, [l] => some (.forceRelease l)
  | 0x23, [l] => some (.repairLock l)
  | 0x30, [p] => some (.resetPort p)
  | 0x40, [l] => some (.snapshotLock l)
  | 0x41, [p] => some (.snapshotPort p)
  | 0x42, [] => some .readSnapshot
  | 0x50, [] => some .readFault
  | 0x51, [] => some .readAlert
  | 0x52, [a, b] => some (.setAlertMask (field16 a b))
  | 0x53, [a, b] => some (.clearAlert (field16 a b))
  | 0x60, [] => some .readStatus
  | _, _ => none

/-- The command a supervisor's write transaction spells, on the bytes after the address byte (R174). -/
def commandFrame (bytes : List Byte) : Instr :=
  match bytes with
  | op :: n :: ps =>
    if ps.length = n.toNat then (commandOfParameters op ps).getD (.badCommandFrame bytes) else .badCommandFrame bytes
  | _ => .badCommandFrame bytes

/-- Opcode, parameter length and parameters, as the supervisor writes them. -/
def commandBytesOf (opcode : Byte) (ps : List Byte) : List Byte := opcode :: byteOf ps.length :: ps

/-- The bytes of a supervisor command; none for a command that is none of Table 11-3. -/
def commandBytes (c : Instr) : Option (List Byte) :=
  match c with
  | .setClock period => some (commandBytesOf 0x01#8 (bytes16 period))
  | .setPort p e k w => some (commandBytesOf 0x02#8 (p :: e :: k :: bytes16 w))
  | .setWeight k => some (commandBytesOf 0x03#8 [k])
  | .defineWindow w base pages kind lock wp rp =>
    some (commandBytesOf 0x10#8 (w :: (bytes32 base ++ bytes32 pages ++ [kind, lock, wp, rp])))
  | .enableWindow w => some (commandBytesOf 0x11#8 [w])
  | .disableWindow w => some (commandBytesOf 0x12#8 [w])
  | .readWindow w => some (commandBytesOf 0x13#8 [w])
  | .defineLock l level lease lp op => some (commandBytesOf 0x20#8 (l :: level :: (bytes16 lease ++ [lp, op])))
  | .undefineLock l => some (commandBytesOf 0x21#8 [l])
  | .forceRelease l => some (commandBytesOf 0x22#8 [l])
  | .repairLock l => some (commandBytesOf 0x23#8 [l])
  | .resetPort p => some (commandBytesOf 0x30#8 [p])
  | .snapshotLock l => some (commandBytesOf 0x40#8 [l])
  | .snapshotPort p => some (commandBytesOf 0x41#8 [p])
  | .readSnapshot => some (commandBytesOf 0x42#8 [])
  | .readFault => some (commandBytesOf 0x50#8 [])
  | .readAlert => some (commandBytesOf 0x51#8 [])
  | .setAlertMask m => some (commandBytesOf 0x52#8 (bytes16 m))
  | .clearAlert m => some (commandBytesOf 0x53#8 (bytes16 m))
  | .readStatus => some (commandBytesOf 0x60#8 [])
  | _ => none

/-! ### The table's words -/

/-- spec/opcode_table.json gives no row any bits, so no word spells a command. -/
def decodeTableWord (_nbits _w : Nat) : Option Instr := none

end Sys2Proof
end

