-- ==== Sys2Proof/Config.lean ====
section
/-! DEFINITION. What the part fixes in number, and the one free value the manual leaves open. -/

namespace Sys2Proof.Config

/-- Free value: where two frames formed in one event stand relative to each other. R133: "Two frames formed in one
event are appended in either order". The n-th use of the model reads `frameOrder n` (log entry 5). -/
opaque frameOrder : Nat → Nat

/-- Entries of the flight table (R138). -/
abbrev flightCapacity : Nat := 16

/-- Records of the fault log (R165). -/
abbrev logCapacity : Nat := 16

/-- Places of a hold list, a pending wait included (R53). -/
abbrev holdPlaces : Nat := 8

/-- NOTICEs a send list holds unsent (R133). -/
abbrev noticeLimit : Nat := 8

/-- Consecutive bad frames that are link loss (R122, R123). -/
abbrev badFrameLimit : Nat := 8

/-- Pages of the 32-bit agent address space (R86). -/
abbrev addressPages : Nat := 1048576

/-- Bytes of a page (R86). -/
abbrev pageBytes : Nat := 4096

/-- Lock slots of a page (R12). -/
abbrev slotsPerPage : Nat := 128

/-- Tick period in µs after power-on and RESET# (R65). -/
abbrev resetPeriod : BitVec 16 := 100

end Sys2Proof.Config
end

