-- ==== Sys2Proof/Machine/State.lean ====
section
/-! DEFINITION. The state of the Othran LC6, block by block, its value at reset, and the ways a step can stop. -/

namespace Sys2Proof.Machine

/-! ### Lock unit (01, 02, 03) -/

/-- The six lock states (R6 to R11). -/
inductive LockState where
  | undefined
  | free
  | exclusive
  | shared
  | draining
  | broken
deriving DecidableEq, Repr

/-- The mode of a holding, a wait or a request (R2). -/
inductive Mode where
  | exclusive
  | shared
deriving DecidableEq, Repr

/-- What happens when a lease runs out (Table 1-1). -/
inductive LeasePolicy where
  | report
  | revoke
deriving DecidableEq, Repr

/-- What happens when an exclusive holder's port is reset (Table 1-1). -/
inductive OrphanPolicy where
  | release
  | breakLock
deriving DecidableEq, Repr

/-- The four parameter fields of a lock record (R4). -/
structure LockParams where
  level : BitVec 4
  lease : BitVec 16
  leasePolicy : LeasePolicy
  orphanPolicy : OrphanPolicy
deriving DecidableEq, Repr

/-- A holding port with its mode (R2). -/
structure Holder where
  port : PortId
  mode : Mode
deriving DecidableEq, Repr

/-- A waiter record (Table 2-1). `expired` says that a tick brought its wait remaining to 0 and its timeout has not been
taken yet: it tells such a record from an unlimited one (log entry 10). -/
structure Waiter where
  port : PortId
  tag : Tag
  mode : Mode
  remaining : BitVec 16
  expired : Bool
deriving DecidableEq, Repr

/-- A lock record (Table 1-1). The parameters are absent while UNDEFINED. Holders stand in the order of their grants,
oldest first (R73, log entry 19). -/
structure LockRecord where
  state : LockState
  params : Option LockParams
  holders : List Holder
  waiters : List Waiter
  generation : BitVec 16
  taint : Bool
  leaseRemaining : BitVec 16
  leaseRunning : Bool
  leaseReported : Bool
  guardFlight : Nat
deriving DecidableEq, Repr

/-- The power-on values of a lock record (R1). -/
def LockRecord.powerOn : LockRecord where
  state := .undefined
  params := none
  holders := []
  waiters := []
  generation := 0
  taint := false
  leaseRemaining := 0
  leaseRunning := false
  leaseReported := false
  guardFlight := 0

/-- A hold entry (Table 3-1). -/
structure HoldEntry where
  lock : LockId
  mode : Mode
  generation : BitVec 16
  revoked : Bool
  loss : Bool
deriving DecidableEq, Repr

/-- The lock unit: 64 lock records (R1), six hold lists, oldest entry first (R49), and each port's pending wait (R29). -/
structure LockUnit where
  locks : Vector LockRecord 64
  holds : Vector (List HoldEntry) 6
  waits : Vector (Option LockId) 6
deriving DecidableEq, Repr

/-! ### Lock clock (04) -/

/-- The lock clock (Table 4-1): the period now running, the period that begins next (R66), the tick counter, and the
tick claims handed to each lock record and not yet taken there (R67, log entry 9). -/
structure LockClock where
  period : BitVec 16
  nextPeriod : BitVec 16
  counter : BitVec 32
  claims : Vector Nat 64
deriving DecidableEq, Repr

/-! ### Window map (05) -/

/-- Treatment of a write by a non-holder (Table 5-1). -/
inductive WritePolicy where
  | drop
  | pass
deriving DecidableEq, Repr

/-- Treatment of a read (Table 5-1). -/
inductive ReadPolicy where
  | openAll
  | drop
  | pass
deriving DecidableEq, Repr

/-- The kind of a window with the fields that kind has (R87). -/
inductive WindowKind where
  | lock (first : LockId)
  | guard (guarding : LockId) (write : WritePolicy) (read : ReadPolicy)
  | block
deriving DecidableEq, Repr

/-- The fields of a window other than its state (Table 5-1). -/
structure WindowDef where
  base : Nat
  pages : Nat
  kind : WindowKind
deriving DecidableEq, Repr

/-- A window record (R86, R88): an UNDEFINED window has no fields. -/
inductive WindowRecord where
  | undefined
  | defined (d : WindowDef)
  | enabled (d : WindowDef)
deriving DecidableEq, Repr

/-! ### Agent ports (07) -/

/-- The link state of a port (R119). -/
inductive LinkState where
  | offline
  | online
  | resetting
deriving DecidableEq, Repr

/-- The arbitration class of a port (Table 7-1). -/
inductive PortClass where
  | fore
  | back
deriving DecidableEq, Repr

/-- Read or write (Table 7-2). -/
inductive ReqKind where
  | read
  | write
deriving DecidableEq, Repr

/-- An accepted request: the fields of its REQUEST frame (R117). `size` is in bytes. -/
structure Request where
  tag : Tag
  kind : ReqKind
  size : Nat
  addr : Word
  data : List Byte
deriving DecidableEq, Repr

/-- What the lock unit takes from a port: the eight slot operations of Table 1-3 and a wrong-direction access (R13). -/
inductive LockOpKind where
  | acquireExclusive
  | acquireShared
  | tryExclusive
  | tryShared
  | inspect
  | release
  | releaseLatest
  | withdraw
  | misuse
deriving DecidableEq, Repr

/-- A lock operation or MISUSE access as it travels to the lock unit: with its tag, the slot's lock number fixed at
classification, and the window and address its fault records carry (R14, R26, R97). -/
structure LockOp where
  kind : LockOpKind
  tag : Tag
  number : Nat
  window : WindowId
  addr : Word
deriving DecidableEq, Repr

/-- The classification result that a head keeps while it waits (R96, Table 7-4): memory-bound (PLAIN, GUARD-PASSED, or
GUARD-AUTHORIZED with its guarding lock, its window and that window's write policy as classified), or a RELEASE or
RELEASE-LATEST held at the release fence. -/
inductive HeadClass where
  | plain
  | guardPassed
  | guardAuthorized (lock : LockId) (window : WindowId) (policy : WritePolicy)
  | heldRelease (op : LockOp)
deriving DecidableEq, Repr

/-- The result field of a RESPONSE (Table 7-2). -/
inductive RespResult where
  | ok
  | blocked
  | memfail
deriving DecidableEq, Repr

/-- The reason of a PROTOCOL notice (Table 7-2). -/
inductive ProtocolReason where
  | tagInUse
  | badSize
  | unaligned
  | badKind
  | notOpen
deriving DecidableEq, Repr

/-- A NOTICE (Table 7-2). -/
inductive Notice where
  | resend (count : BitVec 8)
  | protocol (tag : Tag) (reason : ProtocolReason)
  | openAck
  | openNak
  | close
deriving DecidableEq, Repr

/-- A frame the part sends to an agent (Table 7-2). -/
inductive Frame where
  | response (tag : Tag) (result : RespResult) (data : List Byte)
  | notice (n : Notice)
deriving DecidableEq, Repr

/-- An agent port (Table 7-1). `claimDue`: its port-gone claim is handed to the lock unit and not yet taken (R152).
`headClass`: the classification of the head while it waits, none when the queue is empty or its head is not yet
classified (R128). `handed`: the operation handed to the lock unit and not yet taken there (R128, log entry 8). `stale`: that
operation is of a session which a port reset has ended, so its word is discarded (R126, R152, log entry 7). -/
structure PortRecord where
  link : LinkState
  claimDue : Bool
  enabled : Bool
  cls : PortClass
  waitLimit : BitVec 16
  queue : List Request
  headClass : Option HeadClass
  handed : Option LockOp
  stale : Bool
  outstanding : BitVec 16
  flight : Nat
  writeFlight : Nat
  badCount : Nat
  receiveCount : BitVec 8
  sendList : List Frame
deriving DecidableEq, Repr

/-- The power-on values of a port (R117, Table 7-1). -/
def PortRecord.powerOn : PortRecord where
  link := .offline
  claimDue := false
  enabled := true
  cls := .fore
  waitLimit := 0
  queue := []
  headClass := none
  handed := none
  stale := false
  outstanding := 0
  flight := 0
  writeFlight := 0
  badCount := 0
  receiveCount := 0
  sendList := []

/-! ### Issue arbiter and memory port (08) -/

/-- A request as it goes out on the memory link: a kind, a size, an address and for a write its data. -/
structure MemRequest where
  kind : ReqKind
  size : Nat
  addr : Word
  data : List Byte
deriving DecidableEq, Repr

/-- The issue slot (Table 8-2): free, held by a chosen head not yet issued, or held while an issued request is being
sent on the memory link (R139, R142, log entry 24). -/
inductive IssueSlot where
  | free
  | chosen (p : PortId)
  | sending (r : MemRequest)
deriving DecidableEq, Repr

/-- The issue arbiter (Table 8-2). -/
structure Arbiter where
  fore : PortId
  back : PortId
  foreGrants : Nat
  weight : Nat
  slot : IssueSlot
deriving DecidableEq, Repr

/-- A flight-table entry (Table 8-1): a tag of none is detached. -/
structure FlightEntry where
  port : PortId
  tag : Option Tag
  kind : ReqKind
  size : Nat
  addr : Word
  guard : Option LockId
deriving DecidableEq, Repr

/-- The memory port: the flight table, oldest issue first (R138), and the number of its link session (R149, log
entry 12). -/
structure MemPort where
  table : List FlightEntry
  session : Nat
deriving DecidableEq, Repr

/-! ### Fault unit (10) -/

/-- The twelve fault classes (Table 10-1). -/
inductive FaultClass where
  | decode
  | misuse
  | guardWrite
  | guardRead
  | order
  | timeout
  | lease
  | revoked
  | orphan
  | memRead
  | memWrite
  | link
deriving DecidableEq, Repr

/-- A fault as its block reports it: the class and the fields present (R164). -/
structure FaultInfo where
  cls : FaultClass
  port : Option PortId := none
  tag : Option Tag := none
  lock : Option LockId := none
  window : Option WindowId := none
  generation : Option (BitVec 16) := none
  addr : Option Word := none
deriving DecidableEq, Repr

/-- A fault record of the log: a report with the tick count and the MORE flag (R164). -/
structure FaultRecord where
  info : FaultInfo
  tick : BitVec 32
  more : Bool
deriving DecidableEq, Repr

/-- A report handed to the fault unit and not yet taken (R163). -/
structure Report where
  source : FaultSource
  faults : List FaultInfo
deriving DecidableEq, Repr

/-- The fault unit: log, oldest first; pending class set, alert enable set (bit c - 1 is the class of code c); and whether
ALERT# is asserted (R163, R171). -/
structure FaultUnit where
  log : List FaultRecord
  pendingClasses : BitVec 12
  enabledClasses : BitVec 12
  alert : Bool
deriving DecidableEq, Repr

/-! ### Supervisor port (11) -/

/-- The status codes (Table 11-2). -/
inductive Status where
  | done
  | inProgress
  | badParam
  | inUse
  | overlap
  | notDefined
  | notFree
  | noHolder
  | notBroken
  | draining
  | stillLatched
  | empty
deriving DecidableEq, Repr

/-- A result frame: its status and its data bytes (Table 11-1). -/
structure ResultFrame where
  status : Status
  data : List Byte
deriving DecidableEq, Repr

/-- The command state (R175); IN_PROGRESS names the port whose reset the RESET_PORT waits for. -/
inductive CommandState where
  | idle
  | inProgress (p : PortId)
  | complete
deriving DecidableEq, Repr

/-- A waiter as a port snapshot shows it: lock, mode and tag of the held ACQUIRE (R64). -/
structure WaitView where
  lock : LockId
  mode : Mode
  tag : Tag
deriving DecidableEq, Repr

/-- The copy of a port record a snapshot holds (R137, R184). -/
structure PortView where
  link : LinkState
  enabled : Bool
  cls : PortClass
  atFence : Bool
  waitLimit : BitVec 16
  outstanding : BitVec 16
  queued : Nat
  flight : Nat
  writeFlight : Nat
  badCount : Nat
  wait : Option WaitView
  holds : List HoldEntry
deriving DecidableEq, Repr

/-- A latched snapshot (R182). -/
inductive Snapshot where
  | lock (l : LockId) (r : LockRecord)
  | port (p : PortId) (v : PortView)
deriving DecidableEq, Repr

/-- The supervisor port (R173): command state, result frame, snapshot buffer, the straps sampled last, and whether the
address byte of the last write addressed to the part was acknowledged (R175, log entry 16). -/
structure Supervisor where
  command : CommandState
  result : ResultFrame
  snapshot : Option Snapshot
  straps : BitVec 3
  acked : Bool
deriving DecidableEq, Repr

/-! ### The whole part -/

/-- The state of the part. `resetLow`: RESET# is low. `draws`: how many free values have been used (log entry 5).
`pending`: the commands waiting, first in, first out. -/
structure State where
  resetLow : Bool
  lockUnit : LockUnit
  clock : LockClock
  windows : Vector WindowRecord 16
  ports : Vector PortRecord 6
  arbiter : Arbiter
  memPort : MemPort
  reports : List Report
  faultUnit : FaultUnit
  supervisor : Supervisor
  draws : Nat
  pending : List Instr
deriving DecidableEq, Repr

/-- The part right after RESET# has returned high (R161, Table 9-2). Straps, session number, `acked` and `draws` are
DESIGN CHOICES (log entries 3, 12, 16, 5): the manual gives no value for them. -/
def State.reset : State where
  resetLow := false
  lockUnit := {
    locks := Vector.replicate 64 LockRecord.powerOn
    holds := Vector.replicate 6 []
    waits := Vector.replicate 6 none }
  clock := {
    period := Config.resetPeriod
    nextPeriod := Config.resetPeriod
    counter := 0
    claims := Vector.replicate 64 0 }
  windows := Vector.replicate 16 .undefined
  ports := Vector.replicate 6 PortRecord.powerOn
  arbiter := { fore := 0, back := 0, foreGrants := 0, weight := 4, slot := .free }
  memPort := { table := [], session := 0 }
  reports := []
  faultUnit := { log := [], pendingClasses := 0, enabledClasses := 0, alert := false }
  supervisor := {
    command := .idle
    result := { status := .empty, data := [] }
    snapshot := none
    straps := 0
    acked := false }
  draws := 0
  pending := []

/-! ### Ways a step can stop -/

/-- Faults: the LC6 has no event that stops it, so no meaning raises one and the type has no constructor. -/
inductive Fault where
deriving DecidableEq, Repr

/-- Refusals. -/
inductive Refusal where
  /-- Raised by `exec` for a command that has no meaning yet, under its name in spec/opcode_table.json; safe. No arm
  uses it: every command has its meaning. -/
  | notModelled (mnemonic : String)
deriving DecidableEq, Repr

end Sys2Proof.Machine
end

