-- ==== Sys2Proof/Machine/Flags.lean ====
section
/-! DEFINITION. Status words and byte layouts: outcome codes, the result word and the inspect word (01), fault records and
class sets (10), window, snapshot and status data (11), and the bytes of the frames the part sends (07). -/

namespace Sys2Proof.Machine

/-! ### Codes -/

/-- The outcome codes by name (Table 1-6). -/
inductive LockOutcome where
  | granted
  | busy
  | order
  | held
  | full
  | pending
  | timeout
  | withdrawn
  | broken
  | undefined
  | misuse
  | released
  | releasedLoss
  | notHolder
  | revoked
  | none
deriving DecidableEq, Repr

/-- Table 1-6. -/
def LockOutcome.code (o : LockOutcome) : Byte :=
  match o with
  | .granted => 0x01
  | .busy => 0x02
  | .order => 0x03
  | .held => 0x04
  | .full => 0x05
  | .pending => 0x06
  | .timeout => 0x07
  | .withdrawn => 0x08
  | .broken => 0x09
  | .undefined => 0x0A
  | .misuse => 0x0B
  | .released => 0x10
  | .releasedLoss => 0x11
  | .notHolder => 0x12
  | .revoked => 0x13
  | .none => 0x14

/-- The lock-state encoding (Table 1-8, Table 11-3). -/
def LockState.code (s : LockState) : Nat :=
  match s with
  | .undefined => 0
  | .free => 1
  | .exclusive => 2
  | .shared => 3
  | .draining => 4
  | .broken => 5

/-- 1 for SHARED, 0 for EXCLUSIVE (Tables 1-7, 11). -/
def Mode.code (m : Mode) : Nat :=
  match m with
  | .exclusive => 0
  | .shared => 1

/-- 0 REPORT, 1 REVOKE. -/
def LeasePolicy.code (p : LeasePolicy) : Nat :=
  match p with
  | .report => 0
  | .revoke => 1

/-- 0 RELEASE, 1 BREAK. -/
def OrphanPolicy.code (p : OrphanPolicy) : Nat :=
  match p with
  | .release => 0
  | .breakLock => 1

/-- 0 DROP, 1 PASS. -/
def WritePolicy.code (p : WritePolicy) : Nat :=
  match p with
  | .drop => 0
  | .pass => 1

/-- 0 OPEN, 1 DROP, 2 PASS. -/
def ReadPolicy.code (p : ReadPolicy) : Nat :=
  match p with
  | .openAll => 0
  | .drop => 1
  | .pass => 2

/-- 0 OFFLINE, 1 ONLINE, 2 RESETTING. -/
def LinkState.code (l : LinkState) : Nat :=
  match l with
  | .offline => 0
  | .online => 1
  | .resetting => 2

/-- 0 FORE, 1 BACK. -/
def PortClass.code (c : PortClass) : Nat :=
  match c with
  | .fore => 0
  | .back => 1

/-- Table 11-2. -/
def Status.code (s : Status) : Byte :=
  match s with
  | .done => 0x00
  | .inProgress => 0x01
  | .badParam => 0x02
  | .inUse => 0x03
  | .overlap => 0x04
  | .notDefined => 0x05
  | .notFree => 0x06
  | .noHolder => 0x07
  | .notBroken => 0x08
  | .draining => 0x09
  | .stillLatched => 0x0A
  | .empty => 0x0B

/-- Table 10-1. -/
def FaultClass.code (c : FaultClass) : Nat :=
  match c with
  | .decode => 1
  | .misuse => 2
  | .guardWrite => 3
  | .guardRead => 4
  | .order => 5
  | .timeout => 6
  | .lease => 7
  | .revoked => 8
  | .orphan => 9
  | .memRead => 10
  | .memWrite => 11
  | .link => 12

/-- The class set that holds one class: bit c - 1 for code c (Table 10-3). -/
def FaultClass.bit (c : FaultClass) : BitVec 12 := BitVec.twoPow 12 (c.code - 1)

/-! ### Result word and inspect word (R25, R19) -/

/-- The result word (Table 1-7): taint in bit 31, mode in bit 30, lock in 29:24, outcome in 23:16, generation in 15:0. -/
def resultWord (o : LockOutcome) (lock : Nat) (m : Mode) (generation : BitVec 16) (taint : Bool) : Word :=
  BitVec.ofBool taint ++ BitVec.ofNat 1 m.code ++ BitVec.ofNat 6 lock ++ o.code ++ generation

/-- The inspect word (Table 1-8): level in bits 31:28, taint in 27, relation in 26:25, waiters in 24:22, holders in
21:19, state in 18:16, generation in 15:0. -/
def inspectWord (r : LockRecord) (relation : Nat) : Word :=
  (match r.params with | some q => q.level | none => 0#4) ++ BitVec.ofBool r.taint ++ BitVec.ofNat 2 relation ++
    BitVec.ofNat 3 r.waiters.length ++ BitVec.ofNat 3 r.holders.length ++ BitVec.ofNat 3 r.state.code ++ r.generation

/-- The relation of a port to a lock from its hold entry for it (R19): 0 none, 1 live SHARED, 2 live EXCLUSIVE, 3
revoked whatever the mode. -/
def relationOf (e : Option HoldEntry) : Nat :=
  match e with
  | none => 0
  | some e =>
    if e.revoked then 3
    else match e.mode with
      | .shared => 1
      | .exclusive => 2

/-! ### Byte layouts -/

/-- A Bool as bit `k` of a byte. -/
def bitAt (k : Nat) (b : Bool) : Byte := if b then BitVec.twoPow 8 k else 0

/-- An optional number as a byte, 0 where absent (Table 10-2, note 1). -/
def optionByte (n : Option Nat) : Byte := byteOf (n.getD 0)

/-- A fault record as READ_FAULT returns it: 16 bytes (Table 10-2). -/
def FaultRecord.bytes (r : FaultRecord) : List Byte :=
  [ byteOf r.info.cls.code ||| bitAt 7 r.more,
    bitAt 0 r.info.port.isSome ||| bitAt 1 r.info.tag.isSome ||| bitAt 2 r.info.lock.isSome |||
      bitAt 3 r.info.window.isSome ||| bitAt 4 r.info.generation.isSome ||| bitAt 5 r.info.addr.isSome,
    optionByte (r.info.port.map Fin.val),
    optionByte (r.info.tag.map Fin.val),
    optionByte (r.info.lock.map Fin.val),
    optionByte (r.info.window.map Fin.val) ] ++
  bytes16 (r.info.generation.getD 0) ++ bytes32 (r.info.addr.getD 0) ++ bytes32 r.tick

/-- A class set in two bytes, bits 15:12 as 0 (Table 10-3). -/
def classSetBytes (c : BitVec 12) : List Byte := bytes16 (c.setWidth 16)

/-- The seven fields of a window with absent ones as 0, in the order and sizes of DEFINE_WINDOW (R179). -/
def WindowDef.bytes (d : WindowDef) : List Byte :=
  bytes32 (BitVec.ofNat 32 d.base) ++ bytes32 (BitVec.ofNat 32 d.pages) ++
  match d.kind with
  | .lock first => [1, byteOf first.val, 0, 0]
  | .guard l w r => [2, byteOf l.val, byteOf w.code, byteOf r.code]
  | .block => [3, 0, 0, 0]

/-- READ_WINDOW's 14 bytes (R179, R95). -/
def windowBytes (w : WindowId) (r : WindowRecord) : List Byte :=
  byteOf w.val ::
  match r with
  | .undefined => List.replicate 13 0
  | .defined d => 1 :: d.bytes
  | .enabled d => 2 :: d.bytes

/-- A mode in bit 7 (R183, R184). -/
def modeBit7 (m : Mode) : Byte := bitAt 7 (m == .shared)

/-- The byte of port `p` in the holder part of a lock snapshot, if it holds (R183: "in rising port order"). -/
def holderByte (hs : List Holder) (p : PortId) : List Byte :=
  match hs.find? (fun h => h.port == p) with
  | some h => [byteOf p.val ||| modeBit7 h.mode]
  | none => []

/-- A waiter's four bytes in a lock snapshot (R183). -/
def Waiter.bytes (w : Waiter) : List Byte :=
  [byteOf w.port.val, byteOf w.tag.val ||| modeBit7 w.mode] ++ bytes16 w.remaining

/-- A lock snapshot's bytes (R183). -/
def lockSnapshotBytes (l : LockId) (r : LockRecord) : List Byte :=
  [ 0x01, byteOf l.val,
    byteOf r.state.code ||| bitAt 3 (r.params.any (fun q => q.leasePolicy == .revoke)) |||
      bitAt 4 (r.params.any (fun q => q.orphanPolicy == .breakLock)) ||| bitAt 5 r.taint ||| bitAt 6 r.leaseRunning |||
      bitAt 7 r.leaseReported,
    (match r.params with | some q => q.level | none => 0#4).setWidth 8 ] ++
  bytes16 (match r.params with | some q => q.lease | none => 0) ++ bytes16 r.leaseRemaining ++ bytes16 r.generation ++
  [byteOf r.guardFlight, byteOf r.holders.length, byteOf r.waiters.length, 0] ++
  (List.finRange 6).flatMap (holderByte r.holders) ++ r.waiters.flatMap Waiter.bytes

/-- A hold entry's four bytes in a port snapshot (R184). -/
def HoldEntry.bytes (e : HoldEntry) : List Byte :=
  [byteOf e.lock.val, bitAt 0 (e.mode == .shared) ||| bitAt 1 e.revoked ||| bitAt 2 e.loss] ++ bytes16 e.generation

/-- A port snapshot's bytes (R184). -/
def portSnapshotBytes (p : PortId) (v : PortView) : List Byte :=
  [ 0x02, byteOf p.val,
    byteOf v.link.code ||| bitAt 2 v.enabled ||| bitAt 3 (v.cls == .back) ||| bitAt 4 v.atFence ] ++
  bytes16 v.waitLimit ++ bytes16 v.outstanding ++
  [ byteOf v.queued, byteOf v.flight, byteOf v.writeFlight, byteOf v.badCount,
    byteOf (v.holds.length + (if v.wait.isSome then 1 else 0)),
    (match v.wait with | some w => byteOf w.lock.val | none => 0xFF),
    (match v.wait with | some w => byteOf w.tag.val ||| modeBit7 w.mode | none => 0),
    byteOf v.holds.length, 0 ] ++
  v.holds.flatMap HoldEntry.bytes

/-- The data of READ_SNAPSHOT (R182). -/
def Snapshot.bytes (s : Snapshot) : List Byte :=
  match s with
  | .lock l r => lockSnapshotBytes l r
  | .port p v => portSnapshotBytes p v

/-- The bytes of a result frame (Table 11-1). -/
def ResultFrame.bytes (f : ResultFrame) : List Byte := f.status.code :: byteOf f.data.length :: f.data

/-- The reason code of a PROTOCOL notice (Table 7-2). -/
def ProtocolReason.code (r : ProtocolReason) : Nat :=
  match r with
  | .tagInUse => 1
  | .badSize => 2
  | .unaligned => 3
  | .badKind => 4
  | .notOpen => 5

/-- The result code of a RESPONSE (Table 7-2). -/
def RespResult.code (r : RespResult) : Nat :=
  match r with
  | .ok => 0
  | .blocked => 1
  | .memfail => 2

/-- The two bytes of a NOTICE after its type: kind and detail (Table 7-2). -/
def Notice.bytes (n : Notice) : List Byte :=
  match n with
  | .resend count => [0x1, count]
  | .protocol tag reason => [0x2, BitVec.ofNat 4 reason.code ++ BitVec.ofNat 4 tag.val]
  | .openAck => [0x3, 0]
  | .openNak => [0x4, 0]
  | .close => [0x5, 0]

/-- The bytes of a frame the part sends, check byte included (Table 7-2, R118). -/
def Frame.bytes (f : Frame) : List Byte :=
  match f with
  | .response tag result data =>
    withCheck (0x20 :: (BitVec.ofNat 4 result.code ++ BitVec.ofNat 4 tag.val) :: byteOf data.length :: data)
  | .notice n => withCheck (0x21 :: n.bytes)

end Sys2Proof.Machine
end

