-- ==== Sys2Proof/Machine/Operands.lean ====
section
/-! DEFINITION. Operand forms: the numbers and codes of command parameters read into the model's types (Table 11-3), the
fields of a REQUEST (R124), and the slot and operation an address selects (R12, Table 1-3). -/

namespace Sys2Proof.Machine

/-! ### Numbers of ports, locks and windows: refused when out of range (R178 to R181) -/

/-- A port number of a command, none above 5. -/
def portOf (b : Byte) : Option PortId := if h : b.toNat < 6 then some ⟨b.toNat, h⟩ else none

/-- A lock number of a command, none above 63. -/
def lockOf (b : Byte) : Option LockId := if h : b.toNat < 64 then some ⟨b.toNat, h⟩ else none

/-- A window number of a command, none above 15. -/
def windowOf (b : Byte) : Option WindowId := if h : b.toNat < 16 then some ⟨b.toNat, h⟩ else none

/-- The lock a slot's lock number names; numbers above 63 name none (R12). -/
def slotLock (n : Nat) : Option LockId := if h : n < 64 then some ⟨n, h⟩ else none

/-! ### Codes of command parameters (Table 11-3, encodings) -/

/-- 0 disabled, 1 enabled. -/
def enableOf (b : Byte) : Option Bool := if b = 0 then some false else if b = 1 then some true else none

/-- 0 FORE, 1 BACK. -/
def classOf (b : Byte) : Option PortClass := if b = 0 then some .fore else if b = 1 then some .back else none

/-- 0 DROP, 1 PASS. -/
def writePolicyOf (b : Byte) : Option WritePolicy := if b = 0 then some .drop else if b = 1 then some .pass else none

/-- 0 OPEN, 1 DROP, 2 PASS. -/
def readPolicyOf (b : Byte) : Option ReadPolicy :=
  if b = 0 then some .openAll else if b = 1 then some .drop else if b = 2 then some .pass else none

/-- 0 REPORT, 1 REVOKE. -/
def leasePolicyOf (b : Byte) : Option LeasePolicy := if b = 0 then some .report else if b = 1 then some .revoke else none

/-- 0 RELEASE, 1 BREAK. -/
def orphanPolicyOf (b : Byte) : Option OrphanPolicy :=
  if b = 0 then some .release else if b = 1 then some .breakLock else none

/-- The kind of a DEFINE_WINDOW with the fields that kind uses. R89: "For a LOCK or BLOCK window the policy parameters
are not examined, and for a BLOCK window the lock reference is not examined." -/
def windowKindOf (kind lockRef writePolicy readPolicy : Byte) : Option WindowKind :=
  if kind = 1 then (lockOf lockRef).map .lock
  else if kind = 2 then
    match lockOf lockRef, writePolicyOf writePolicy, readPolicyOf readPolicy with
    | some l, some w, some r => some (.guard l w r)
    | _, _, _ => none
  else if kind = 3 then some .block
  else none

/-- The fields of a DEFINE_WINDOW, none where R89 refuses them. -/
def windowDefOf (base pages : BitVec 32) (kind lockRef writePolicy readPolicy : Byte) : Option WindowDef :=
  if pages.toNat = 0 ∨ Config.addressPages < pages.toNat ∨ Config.addressPages ≤ base.toNat ∨
      Config.addressPages < base.toNat + pages.toNat then none
  else (windowKindOf kind lockRef writePolicy readPolicy).map
    (fun k => { base := base.toNat, pages := pages.toNat, kind := k })

/-- The parameters of a DEFINE_LOCK, none where R180 refuses them: "A level outside 1 to 15, a lease policy other than 0
or 1, or an orphan policy other than 0 or 1". -/
def lockParamsOf (level : Byte) (lease : BitVec 16) (leasePolicy orphanPolicy : Byte) : Option LockParams :=
  if level = 0 ∨ 15 < level.toNat then none
  else match leasePolicyOf leasePolicy, orphanPolicyOf orphanPolicy with
    | some lp, some op => some { level := level.setWidth 4, lease := lease, leasePolicy := lp, orphanPolicy := op }
    | _, _ => none

/-! ### Fields of a REQUEST (Table 7-2) -/

/-- 0x1 READ, 0x2 WRITE. -/
def reqKindOf (k : BitVec 4) : Option ReqKind := if k = 1 then some .read else if k = 2 then some .write else none

/-! ### Windows and lock slots -/

/-- The page of an address (R86). -/
def pageOf (addr : Word) : Nat := addr.toNat / Config.pageBytes

/-- The range of a window holds a page (R86). -/
def WindowDef.holdsPage (d : WindowDef) (page : Nat) : Bool := decide (d.base ≤ page) && decide (page < d.base + d.pages)

/-- The window decodes an address: it is ENABLED and its range holds it (R88). -/
def WindowRecord.decodes (r : WindowRecord) (addr : Word) : Option WindowDef :=
  match r with
  | .enabled d => if d.holdsPage (pageOf addr) then some d else none
  | .defined _ => none
  | .undefined => none

/-- Two ranges share a page (R92). -/
def WindowDef.overlaps (a b : WindowDef) : Bool :=
  decide (a.base < b.base + b.pages) && decide (b.base < a.base + a.pages)

/-- The lock number of the slot of an address in a LOCK window of base page `base` and first lock `first` (R12). -/
def slotNumber (base : Nat) (first : LockId) (addr : Word) : Nat :=
  first.val + (addr.toNat - Config.pageBytes * base) / 32

/-- The operation of an offset within a slot, and the direction it needs (Table 1-3). -/
def slotOperation (offset : Nat) : LockOpKind × ReqKind :=
  match offset / 4 with
  | 0 => (.acquireExclusive, .read)
  | 1 => (.acquireShared, .read)
  | 2 => (.tryExclusive, .read)
  | 3 => (.tryShared, .read)
  | 4 => (.inspect, .read)
  | 5 => (.release, .write)
  | 6 => (.releaseLatest, .write)
  | _ => (.withdraw, .write)

/-- The operation a 4-byte access selects: the offset's in the right direction, MISUSE in the wrong one (R13). -/
def slotAccess (addr : Word) (kind : ReqKind) : LockOpKind :=
  if (slotOperation (addr.toNat % 32)).2 = kind then (slotOperation (addr.toNat % 32)).1 else .misuse

end Sys2Proof.Machine
end

