-- ==== Sys2Proof/Machine/Ops.lean ====
section
/-! DEFINITION. The named operations over the part's state: reading and writing one record, fault reports and the alert
line, frames of a send list, the supervisor's result, and the operations of the lock unit that several events share
(grants, the grantable moment, removals, revocation, the port-gone claim, completions). -/

namespace Sys2Proof.Machine

/-- An answer of the lock unit to a port: the tag of the request and the result or inspect word (R14). -/
structure Answer where
  port : PortId
  tag : Tag
  word : Word
deriving DecidableEq, Repr

/-- What an event at the lock unit does: the lock unit after it, the words handed to ports, and the faults it reports,
in the order its rule gives. -/
structure LockEffect where
  unit : LockUnit
  answers : List Answer := []
  faults : List FaultInfo := []
deriving DecidableEq, Repr

/-! ### Records of the lock unit -/

/-- The record of a lock. -/
def LockUnit.lock (u : LockUnit) (l : LockId) : LockRecord := u.locks[l]

/-- Write the record of a lock. -/
def LockUnit.setLock (u : LockUnit) (l : LockId) (r : LockRecord) : LockUnit := { u with locks := u.locks.set l r }

/-- The hold list of a port, oldest entry first (R49). -/
def LockUnit.held (u : LockUnit) (p : PortId) : List HoldEntry := u.holds[p]

/-- Write the hold list of a port. -/
def LockUnit.setHeld (u : LockUnit) (p : PortId) (es : List HoldEntry) : LockUnit := { u with holds := u.holds.set p es }

/-- The lock a port's pending wait stands on (R29). -/
def LockUnit.wait (u : LockUnit) (p : PortId) : Option LockId := u.waits[p]

/-- Write the pending wait of a port. -/
def LockUnit.setWait (u : LockUnit) (p : PortId) (w : Option LockId) : LockUnit := { u with waits := u.waits.set p w }

/-- The hold entry of a port for a lock, live or revoked (R49: never two). -/
def LockUnit.entry (u : LockUnit) (p : PortId) (l : LockId) : Option HoldEntry :=
  (u.held p).find? (fun e => e.lock == l)

/-- The port has a live EXCLUSIVE entry for the lock (R75, R104, R110). -/
def LockUnit.holdsExclusive (u : LockUnit) (p : PortId) (l : LockId) : Bool :=
  (u.entry p l).any (fun e => !e.revoked && e.mode == .exclusive)

/-- The port has a live entry for the lock in either mode (R105). -/
def LockUnit.holdsLive (u : LockUnit) (p : PortId) (l : LockId) : Bool := (u.entry p l).any (fun e => !e.revoked)

/-- The port's places in use: its hold entries and its pending wait (R53). -/
def LockUnit.places (u : LockUnit) (p : PortId) : Nat := (u.held p).length + (if (u.wait p).isSome then 1 else 0)

/-- The level of a lock record, 0 while UNDEFINED. -/
def LockRecord.level (r : LockRecord) : Nat := match r.params with | some q => q.level.toNat | none => 0

/-- The lease of a lock record, 0 while UNDEFINED. -/
def LockRecord.lease (r : LockRecord) : BitVec 16 := match r.params with | some q => q.lease | none => 0

/-- H: the greatest level among the locks of all of the port's hold entries, read from the lock records now (R58). -/
def LockUnit.highestLevel (u : LockUnit) (p : PortId) : Nat :=
  (u.held p).foldl (fun h e => max h (u.lock e.lock).level) 0

/-- The result word for a defined lock, formed from its record (R25). -/
def LockUnit.wordFor (u : LockUnit) (l : LockId) (o : LockOutcome) (m : Mode) : Word :=
  resultWord o l.val m (u.lock l).generation (u.lock l).taint

/-- The result word for a slot's lock number: lock field 0 above 63; generation and taint 0 above 63 and while
UNDEFINED (R25). -/
def LockUnit.slotWord (u : LockUnit) (number : Nat) (o : LockOutcome) (m : Mode) : Word :=
  match slotLock number with
  | none => resultWord o 0 m 0 false
  | some l => if (u.lock l).state = .undefined then resultWord o l.val m 0 false else u.wordFor l o m

/-! ### Grants (R18, R33, R34, R36) -/

/-- The lock state of a holding in a mode. -/
def Mode.held (m : Mode) : LockState :=
  match m with
  | .exclusive => .exclusive
  | .shared => .shared

/-- The lock record after a grant to port `p` (R18, steps 1, 2 and 4). -/
def LockRecord.grant (r : LockRecord) (p : PortId) (m : Mode) : LockRecord :=
  { r with
    state := m.held
    holders := r.holders ++ [{ port := p, mode := m }]
    generation := r.generation + 1
    leaseRemaining := if r.holders.isEmpty then r.lease else r.leaseRemaining
    leaseRunning := if r.holders.isEmpty then r.lease != 0 else r.leaseRunning
    leaseReported := if r.holders.isEmpty then false else r.leaseReported }

/-- A grant of lock `l` to port `p` in mode `m` (R18, steps 1 to 4). -/
def LockUnit.grant (u : LockUnit) (l : LockId) (p : PortId) (m : Mode) : LockUnit :=
  (u.setLock l ((u.lock l).grant p m)).setHeld p
    (u.held p ++ [{ lock := l, mode := m, generation := (u.lock l).generation + 1, revoked := false, loss := false }])

/-- Grants to waiters already taken out of the queue, in order, each answered GRANTED (R18, R31, R34). -/
def LockUnit.grantWaiters (u : LockUnit) (l : LockId) (ws : List Waiter) : LockUnit × List Answer :=
  match ws with
  | [] => (u, [])
  | w :: ws =>
    let u1 := (u.setWait w.port none).grant l w.port w.mode
    let rest := u1.grantWaiters l ws
    (rest.1, { port := w.port, tag := w.tag, word := u1.wordFor l .granted w.mode } :: rest.2)

/-- The record is a SHARED one. -/
def Waiter.isShared (w : Waiter) : Bool := w.mode == .shared

/-- The leading shared run of the queue is granted: every SHARED record at its front up to the first EXCLUSIVE one
(R34, R36). A record of the run whose own wait has run out and whose timeout is not yet taken is granted with it (R43); R39
says that the same records leave in either order, and the model follows R43 (its choice: log entry 28). -/
def LockUnit.grantRun (u : LockUnit) (l : LockId) : LockUnit × List Answer :=
  let r := u.lock l
  (u.setLock l { r with waiters := r.waiters.dropWhile Waiter.isShared }).grantWaiters l
    (r.waiters.takeWhile Waiter.isShared)

/-- The head is granted: alone if EXCLUSIVE (R33), with its shared run if SHARED (R34). -/
def LockUnit.grantHead (u : LockUnit) (l : LockId) : LockUnit × List Answer :=
  match (u.lock l).waiters with
  | [] => (u, [])
  | w :: ws =>
    match w.mode with
    | .exclusive => (u.setLock l { u.lock l with waiters := ws }).grantWaiters l [w]
    | .shared => u.grantRun l

/-- What a lock becomes when an event has emptied its holder set (R32, R72 step 5, R157): DRAINING with guarded writes in
flight, FREE with no waiters, else its head or leading run is granted. -/
def LockUnit.settle (u : LockUnit) (l : LockId) : LockUnit × List Answer :=
  if (u.lock l).guardFlight ≠ 0 then (u.setLock l { u.lock l with state := .draining }, [])
  else if (u.lock l).waiters = [] then (u.setLock l { u.lock l with state := .free }, [])
  else u.grantHead l

/-- The lease timer stops at 0 (R68). -/
def LockRecord.stopLease (r : LockRecord) : LockRecord := { r with leaseRemaining := 0, leaseRunning := false }

/-! ### Waiters leaving (R31, R36, R37) -/

/-- The waiter record of a port in the queue of a lock. -/
def LockUnit.waiterOf (u : LockUnit) (l : LockId) (p : PortId) : Option Waiter :=
  (u.lock l).waiters.find? (fun w => w.port == p)

/-- The record of port `p` leaves the queue of `l` without a grant: the queue closes up, the pending wait is cleared, and
if it was the head of a SHARED lock the leading shared run behind it is granted (R31, R36, R37). The run joins the holding in
this event, also when a revocation follows; the last sentence of R80 reads otherwise, and the model follows R36 and R81 (its
choice: log entry 29). -/
def LockUnit.removeWaiter (u : LockUnit) (l : LockId) (p : PortId) : LockUnit × List Answer :=
  let r := u.lock l
  let u1 := (u.setLock l { r with waiters := r.waiters.filter (fun w => w.port != p) }).setWait p none
  if r.state = .shared ∧ (r.waiters.head?).map Waiter.port = some p then u1.grantRun l else (u1, [])

/-! ### Acquisition (R15 to R18, R30) -/

/-- A MISUSE record of a slot access (R26): the lock when its number is 63 or below, no generation. -/
def misuseFault (p : PortId) (op : LockOp) : FaultInfo :=
  { cls := .misuse, port := some p, tag := some op.tag, lock := slotLock op.number, window := some op.window,
    addr := some op.addr }

/-- An ORDER record (R26, R58). -/
def orderFault (p : PortId) (op : LockOp) (l : LockId) (generation : BitVec 16) : FaultInfo :=
  { cls := .order, port := some p, tag := some op.tag, lock := some l, window := some op.window,
    generation := some generation, addr := some op.addr }

/-- The lock a slot operation acts on: none when its number is above 63 or names an UNDEFINED lock (R15). -/
def LockUnit.definedLock (u : LockUnit) (number : Nat) : Option LockId :=
  match slotLock number with
  | none => none
  | some l => if (u.lock l).state = .undefined then none else some l

/-- The answer to an operation on an out-of-range or UNDEFINED lock (R15). -/
def LockUnit.undefinedAnswer (u : LockUnit) (p : PortId) (op : LockOp) (m : Mode) : LockEffect :=
  { unit := u, answers := [{ port := p, tag := op.tag, word := u.slotWord op.number .undefined m }],
    faults := [misuseFault p op] }

/-- Checks 2 to 6 of R16 in their order; none when all pass. `tryOnly` is set for a TRY. -/
def LockUnit.refusal (u : LockUnit) (p : PortId) (l : LockId) (tryOnly : Bool) : Option LockOutcome :=
  if (u.lock l).state = .broken then some .broken
  else if (u.entry p l).isSome then some .held
  else if (if tryOnly then u.wait p == some l else (u.wait p).isSome) then some .pending
  else if Config.holdPlaces ≤ u.places p then some .full
  else if tryOnly = false ∧ u.held p ≠ [] ∧ (u.lock l).level ≤ u.highestLevel p then some .order
  else none

/-- The state of a lock grants a request in mode `m` at once (R17). -/
def LockRecord.grantsAtOnce (r : LockRecord) (m : Mode) : Bool :=
  r.state == .free || (r.state == .shared && r.waiters.isEmpty && m == .shared)

/-- An ACQUIRE joins the tail of the queue and becomes the port's pending wait (R27, R30). -/
def LockUnit.joinQueue (u : LockUnit) (l : LockId) (p : PortId) (tag : Tag) (m : Mode) (limit : BitVec 16) : LockUnit :=
  let r := u.lock l
  (u.setLock l { r with
    waiters := r.waiters ++ [{ port := p, tag := tag, mode := m, remaining := limit, expired := false }] }).setWait p
    (some l)

/-- An ACQUIRE-x (`tryOnly` false) or TRY-x (true) by port `p` in mode `m`, with the port's wait limit (R15 to R18). -/
def LockUnit.seek (u : LockUnit) (p : PortId) (op : LockOp) (m : Mode) (tryOnly : Bool) (limit : BitVec 16) :
    LockEffect :=
  match u.definedLock op.number with
  | none => u.undefinedAnswer p op m
  | some l =>
    match u.refusal p l tryOnly with
    | some o =>
      { unit := u, answers := [{ port := p, tag := op.tag, word := u.wordFor l o m }],
        faults := if o = .order then [orderFault p op l (u.lock l).generation] else [] }
    | none =>
      if (u.lock l).grantsAtOnce m then
        let u1 := u.grant l p m
        { unit := u1, answers := [{ port := p, tag := op.tag, word := u1.wordFor l .granted m }] }
      else if tryOnly then
        { unit := u, answers := [{ port := p, tag := op.tag, word := u.wordFor l .busy m }] }
      else { unit := u.joinQueue l p op.tag m limit }

/-! ### Giving back (R20 to R24) -/

/-- The hold entry of `p` for `l` is removed; the others close up (R60). -/
def LockUnit.dropEntry (u : LockUnit) (p : PortId) (l : LockId) : LockUnit :=
  u.setHeld p ((u.held p).filter (fun e => e.lock != l))

/-- Port `p` leaves the holder set of a SHARED lock `l`; the last one out stops the lease and settles the lock (R21,
R155). -/
def LockUnit.leaveShared (u : LockUnit) (l : LockId) (p : PortId) : LockUnit × List Answer :=
  let r := u.lock l
  let hs := r.holders.filter (fun h => h.port != p)
  if hs = [] then (u.setLock l { r.stopLease with holders := [] }).settle l
  else (u.setLock l { r with holders := hs }, [])

/-- The holder set of lock `l` is emptied and its lease stopped, with the taint given (R22, R156). -/
def LockUnit.emptyHolders (u : LockUnit) (l : LockId) (taint : Bool) : LockUnit :=
  u.setLock l { (u.lock l).stopLease with holders := [], taint := taint }

/-- The release of entry `e` of port `p`: revoked (R20), live SHARED (R21) or live EXCLUSIVE (R22). The word is formed
before any grant that the release causes. -/
def LockUnit.giveBack (u : LockUnit) (p : PortId) (tag : Tag) (e : HoldEntry) : LockEffect :=
  let u1 := u.dropEntry p e.lock
  if e.revoked then
    { unit := u1, answers := [{ port := p, tag := tag, word := u1.wordFor e.lock .revoked e.mode }] }
  else
    match e.mode with
    | .shared =>
      let out := u1.leaveShared e.lock p
      { unit := out.1,
        answers := { port := p, tag := tag, word := u1.wordFor e.lock .released e.mode } :: out.2 }
    | .exclusive =>
      let u2 := u1.emptyHolders e.lock (e.loss && (u1.lock e.lock).taint)
      let out := u2.settle e.lock
      { unit := out.1,
        answers :=
          { port := p, tag := tag,
            word := u2.wordFor e.lock (if e.loss then .releasedLoss else .released) e.mode } :: out.2 }

/-- A RELEASE by port `p` (R15, R20 to R22, R60). -/
def LockUnit.release (u : LockUnit) (p : PortId) (op : LockOp) : LockEffect :=
  match u.definedLock op.number with
  | none => u.undefinedAnswer p op .exclusive
  | some l =>
    match u.entry p l with
    | none => { unit := u, answers := [{ port := p, tag := op.tag, word := u.wordFor l .notHolder .exclusive }] }
    | some e => u.giveBack p op.tag e

/-- A RELEASE-LATEST by port `p`: the newest entry, whatever lock the slot names (R23, R61). -/
def LockUnit.releaseLatest (u : LockUnit) (p : PortId) (op : LockOp) : LockEffect :=
  match (u.held p).getLast? with
  | none => { unit := u, answers := [{ port := p, tag := op.tag, word := resultWord .notHolder 0 .exclusive 0 false }] }
  | some e => u.giveBack p op.tag e

/-- An INSPECT by port `p` (R15, R19). -/
def LockUnit.inspect (u : LockUnit) (p : PortId) (op : LockOp) : LockEffect :=
  match u.definedLock op.number with
  | none => { unit := u, answers := [{ port := p, tag := op.tag, word := 0 }], faults := [misuseFault p op] }
  | some l =>
    { unit := u, answers := [{ port := p, tag := op.tag, word := inspectWord (u.lock l) (relationOf (u.entry p l)) }] }

/-- A WITHDRAW by port `p` (R15, R24, R40): both words are formed before any grant that the removal causes. -/
def LockUnit.withdraw (u : LockUnit) (p : PortId) (op : LockOp) : LockEffect :=
  match u.definedLock op.number with
  | none => u.undefinedAnswer p op .exclusive
  | some l =>
    match (if u.wait p = some l then u.waiterOf l p else none) with
    | none => { unit := u, answers := [{ port := p, tag := op.tag, word := u.wordFor l .none .exclusive }] }
    | some w =>
      let word := u.wordFor l .withdrawn w.mode
      let out := u.removeWaiter l p
      { unit := out.1,
        answers := { port := p, tag := w.tag, word := word } :: { port := p, tag := op.tag, word := word } :: out.2 }

/-- A wrong-direction access (R13): no change, a MISUSE word and a MISUSE fault. -/
def LockUnit.misuse (u : LockUnit) (p : PortId) (op : LockOp) : LockEffect :=
  { unit := u, answers := [{ port := p, tag := op.tag, word := u.slotWord op.number .misuse .exclusive }],
    faults := [misuseFault p op] }

/-! ### Ticks, timeouts, leases and revocation (R38, R39, R67 to R74) -/

/-- A tick lowers one waiter whose wait remaining is above 0; at 0 its timeout is given (R38, R67). -/
def Waiter.lowered (w : Waiter) : Waiter :=
  if w.remaining = 0 then w else { w with remaining := w.remaining - 1, expired := w.remaining == 1 }

/-- A tick claim at a lock record (R67). -/
def LockRecord.ticked (r : LockRecord) : LockRecord :=
  { r with
    leaseRemaining := if r.leaseRunning then r.leaseRemaining - 1 else r.leaseRemaining
    waiters := r.waiters.map Waiter.lowered }

/-- The lease expiry of a record is given and not yet taken: its lease remaining stands at 0 and running (R69). -/
def LockRecord.leaseDue (r : LockRecord) : Bool := r.leaseRunning && r.leaseRemaining == 0

/-- Some expiry of the record is given and not yet taken (R67, log entry 9). -/
def LockRecord.expiryDue (r : LockRecord) : Bool := r.leaseDue || r.waiters.any Waiter.expired

/-- The timeout of the record of port `p` in the queue of `l` (R39); nothing when there is no such record whose wait ran
out (R43). -/
def LockUnit.timeout (u : LockUnit) (l : LockId) (p : PortId) : LockEffect :=
  match (u.waiterOf l p).filter Waiter.expired with
  | none => { unit := u }
  | some w =>
    let out := u.removeWaiter l p
    { unit := out.1,
      answers := { port := p, tag := w.tag, word := u.wordFor l .timeout w.mode } :: out.2,
      faults := [{ cls := .timeout, port := some p, tag := some w.tag, lock := some l,
                   generation := some (u.lock l).generation }] }

/-- The entries for lock `l` become revoked (R72, step 1). -/
def revokeEntries (l : LockId) (es : List HoldEntry) : List HoldEntry :=
  es.map (fun e => if e.lock = l then { e with revoked := true } else e)

/-- The entries of the given holders for lock `l` become revoked. -/
def LockUnit.markRevoked (u : LockUnit) (l : LockId) (hs : List Holder) : LockUnit :=
  hs.foldl (fun u h => u.setHeld h.port (revokeEntries l (u.held h.port))) u

/-- A REVOKED record: the port, the lock and the generation of that port's entry (R73). -/
def LockUnit.revokedFault (u : LockUnit) (l : LockId) (h : Holder) : FaultInfo :=
  { cls := .revoked, port := some h.port, lock := some l, generation := (u.entry h.port l).map HoldEntry.generation }

/-- The revocation of lock `l` (R72, R73, R74): holders are in the order of their grants. -/
def LockUnit.revoke (u : LockUnit) (l : LockId) : LockEffect :=
  let hs := (u.lock l).holders
  let u1 := (u.markRevoked l hs).emptyHolders l (u.lock l).taint
  let out := u1.settle l
  { unit := out.1, answers := out.2, faults := hs.map (u.revokedFault l) }

/-- A REPORT lease expiry (R70): the port is in the record when the lock is EXCLUSIVE. The generation is the lock's when the
expiry is taken (R70), so it is higher after a timeout of the same tick that let a shared run join (R36, R47); R81 says that the
two orders differ in the order of the records only, and the model follows R70 (its choice: log entry 32). -/
def LockUnit.reportLease (u : LockUnit) (l : LockId) : LockEffect :=
  let r := u.lock l
  { unit := u.setLock l { r.stopLease with leaseReported := true },
    faults := [{ cls := .lease, lock := some l, generation := some r.generation,
                 port := if r.state = .exclusive then r.holders.head?.map Holder.port else none }] }

/-- A lease expiry at lock `l` (R69 to R71): discarded unless the lease still stands at 0 and running. -/
def LockUnit.leaseExpiry (u : LockUnit) (l : LockId) : LockEffect :=
  if (u.lock l).leaseDue then
    match (u.lock l).params.map LockParams.leasePolicy with
    | some .report => u.reportLease l
    | some .revoke => u.revoke l
    | none => { unit := u }
  else { unit := u }

/-! ### The port-gone claim (R154 to R158, R41, R42) -/

/-- The lock breaks: every waiter leaves, oldest first, answered BROKEN (R42, R158). -/
def LockUnit.breakLock (u : LockUnit) (l : LockId) : LockUnit × List Answer :=
  let r := u.lock l
  (r.waiters.foldl (fun u w => u.setWait w.port none)
      (u.setLock l { r with state := .broken, waiters := [] }),
   r.waiters.map (fun w => { port := w.port, tag := w.tag, word := u.wordFor l .broken w.mode }))

/-- An orphan: the live EXCLUSIVE entry `e` of a reset port (R156), then the orphan policy (R157, R158). -/
def LockUnit.orphan (u : LockUnit) (l : LockId) : LockUnit × List Answer :=
  let u1 := u.emptyHolders l true
  match (u.lock l).params.map LockParams.orphanPolicy with
  | some .breakLock => u1.breakLock l
  | some .release => u1.settle l
  | none => u1.settle l

/-- One hold entry of the claim of port `p` (R155, R156). -/
def LockUnit.claimEntry (u : LockUnit) (p : PortId) (e : HoldEntry) : LockEffect :=
  if e.revoked then { unit := u }
  else
    match e.mode with
    | .shared =>
      let out := u.leaveShared e.lock p
      { unit := out.1, answers := out.2 }
    | .exclusive =>
      let out := u.orphan e.lock
      { unit := out.1, answers := out.2,
        faults := [{ cls := .orphan, port := some p, lock := some e.lock, generation := some e.generation }] }

/-- The hold entries of the claim, oldest first (R154, step 2). -/
def LockUnit.claimEntries (u : LockUnit) (p : PortId) (es : List HoldEntry) : LockEffect :=
  match es with
  | [] => { unit := u }
  | e :: es =>
    let first := u.claimEntry p e
    let rest := first.unit.claimEntries p es
    { unit := rest.unit, answers := first.answers ++ rest.answers, faults := first.faults ++ rest.faults }

/-- Step 1 of the claim: the pending wait of port `p` is removed without an answer (R41, R154). -/
def LockUnit.dropWait (u : LockUnit) (p : PortId) : LockUnit × List Answer :=
  match u.wait p with
  | none => (u, [])
  | some l => u.removeWaiter l p

/-- The port-gone claim of port `p` at the lock unit (R154). -/
def LockUnit.claim (u : LockUnit) (p : PortId) : LockEffect :=
  let first := u.dropWait p
  let rest := first.1.claimEntries p (first.1.held p)
  { unit := rest.unit.setHeld p [], answers := first.2 ++ rest.answers, faults := rest.faults }

/-! ### Guarded writes at the lock (R75, R77, R108, R110) -/

/-- The guard-flight count of a lock rises by one (R108). -/
def LockUnit.countGuarded (u : LockUnit) (l : LockId) : LockUnit :=
  u.setLock l { u.lock l with guardFlight := (u.lock l).guardFlight + 1 }

/-- The loss mark of the live EXCLUSIVE entry of port `p` for lock `l` (R55, R110 step 2). -/
def LockUnit.markLoss (u : LockUnit) (p : PortId) (l : LockId) : LockUnit :=
  u.setHeld p ((u.held p).map (fun e =>
    if e.lock = l ∧ e.revoked = false ∧ e.mode = .exclusive then { e with loss := true } else e))

/-- The failure of a guarded write at its lock: taint and loss mark (R110, steps 1 and 2). -/
def LockUnit.failGuarded (u : LockUnit) (p : PortId) (l : LockId) : LockUnit :=
  (u.setLock l { u.lock l with taint := true }).markLoss p l

/-- The completion of a counted write at its guarding lock `l` (R77, R110): on a failure taint, loss mark and a
MEM_WRITE record; then the count; then the end of DRAINING. -/
def LockUnit.completeGuarded (u : LockUnit) (l : LockId) (e : FlightEntry) (failed : Bool) : LockEffect :=
  let u1 := if failed then u.failGuarded e.port l else u
  let u2 := u1.setLock l { u1.lock l with guardFlight := (u1.lock l).guardFlight - 1 }
  let out := if (u2.lock l).state = .draining ∧ (u2.lock l).guardFlight = 0 then u2.settle l else (u2, [])
  { unit := out.1, answers := out.2,
    faults := if failed then
        [{ cls := .memWrite, port := some e.port, tag := e.tag, lock := some l,
           generation := some (u.lock l).generation, addr := some e.addr }]
      else [] }

/-! ### Records of the whole part -/

/-- The record of a port. -/
def State.port (s : State) (p : PortId) : PortRecord := s.ports[p]

/-- Write the record of a port. -/
def State.setPort (s : State) (p : PortId) (r : PortRecord) : State := { s with ports := s.ports.set p r }

/-- The record of a window. -/
def State.window (s : State) (w : WindowId) : WindowRecord := s.windows[w]

/-- Write the record of a window. -/
def State.setWindow (s : State) (w : WindowId) (r : WindowRecord) : State := { s with windows := s.windows.set w r }

/-- Write the lock unit. -/
def State.setUnit (s : State) (u : LockUnit) : State := { s with lockUnit := u }

/-! ### Fault reports and the alert line (R163 to R171) -/

/-- A block hands a report to the fault unit in the event that raises it; an event without faults hands none (R163). -/
def State.report (s : State) (src : FaultSource) (faults : List FaultInfo) : State :=
  if faults = [] then s else { s with reports := s.reports ++ [{ source := src, faults := faults }] }

/-- ALERT# follows its condition: some class is both pending and enabled (R171). -/
def FaultUnit.drive (f : FaultUnit) : FaultUnit := { f with alert := f.pendingClasses &&& f.enabledClasses != 0 }

/-- The MORE flag of the youngest record is set (R166). -/
def markMore (log : List FaultRecord) : List FaultRecord :=
  match log with
  | [] => []
  | [r] => [{ r with more := true }]
  | r :: rs => r :: markMore rs

/-- One record of a report: appended while the log has room, else lost, and its class pending either way (R165, R166,
R168). -/
def FaultUnit.record (f : FaultUnit) (tick : BitVec 32) (i : FaultInfo) : FaultUnit :=
  { f with
    log := if f.log.length < Config.logCapacity then f.log ++ [{ info := i, tick := tick, more := false }]
      else markMore f.log
    pendingClasses := f.pendingClasses ||| i.cls.bit }

/-- A report is taken whole: all its records carry the same tick count (R163, R164). -/
def FaultUnit.take (f : FaultUnit) (tick : BitVec 32) (faults : List FaultInfo) : FaultUnit :=
  (faults.foldl (fun f i => f.record tick i) f).drive

/-- The fault unit takes a report whole (R163), with the tick counter as it stands now (R164, R65); the reports `kept` wait on.
R150 speaks of the counter at the completion for MEM_READ and MEM_WRITE records, which is another value when a tick has come
between; the model follows R164 and R65 (its choice: log entry 27). -/
def State.takeReport (s : State) (r : Report) (kept : List Report) : State :=
  { s with reports := kept, faultUnit := s.faultUnit.take s.clock.counter r.faults }

/-! ### Frames of a send list (R133) -/

/-- The frame is a NOTICE. -/
def Frame.isNotice (f : Frame) : Bool :=
  match f with
  | .notice _ => true
  | .response _ _ _ => false

/-- A NOTICE is formed; with 8 NOTICEs unsent it is not appended (R133). -/
def PortRecord.sendNotice (r : PortRecord) (n : Notice) : PortRecord :=
  if r.sendList.countP Frame.isNotice < Config.noticeLimit then { r with sendList := r.sendList ++ [.notice n] } else r

/-- A LINK record of a refused REQUEST (R124, R125). -/
def linkFault (p : PortId) (tag : Tag) (addr : Word) : FaultInfo :=
  { cls := .link, port := some p, tag := some tag, addr := some addr }

/-- A tag is outstanding (R126). -/
def PortRecord.hasTag (r : PortRecord) (t : Tag) : Bool := r.outstanding.getLsbD t.val

/-- A tag joins the outstanding set. -/
def PortRecord.addTag (r : PortRecord) (t : Tag) : PortRecord :=
  { r with outstanding := r.outstanding ||| BitVec.twoPow 16 t.val }

/-- A tag leaves the outstanding set. -/
def PortRecord.dropTag (r : PortRecord) (t : Tag) : PortRecord :=
  { r with outstanding := r.outstanding &&& ~~~(BitVec.twoPow 16 t.val) }

/-- The RESPONSE to a lock operation: result OK and the word, lowest byte first (R25, R132). -/
def wordResponse (t : Tag) (w : Word) : Frame := .response t .ok (bytes32 w)

/-- The RESPONSEs of the words handed to port `p`: a word whose tag is no longer outstanding is discarded (R45, R153). -/
def PortRecord.responsesTo (r : PortRecord) (answers : List Answer) : List Frame :=
  (answers.filter (fun a => r.hasTag a.tag)).map (fun a => wordResponse a.tag a.word)

/-- The RESPONSEs of the words handed to the port of the operation itself: an operation of a session that a port reset has
ended gives none (R126, R153). -/
def PortRecord.ownResponses (r : PortRecord) (answers : List Answer) : List Frame :=
  if r.stale then [] else r.responsesTo answers

/-- One word is handed to its port, which appends the RESPONSE at the tail of its send list in this event (R128, R133). So the
NONE of a WITHDRAW never leaves before the GRANTED or TIMEOUT that an earlier event gave its ACQUIRE; R44 lets the two arrive in
either order, and the model follows R133 (its choice: log entry 31). -/
def State.deliverOne (s : State) (a : Answer) : State :=
  s.setPort a.port { s.port a.port with sendList := (s.port a.port).sendList ++ (s.port a.port).responsesTo [a] }

/-- Words are handed to their ports. -/
def State.deliver (s : State) (answers : List Answer) : State := answers.foldl State.deliverOne s

/-- An event at the lock unit takes effect: the lock unit, the words to ports, the report of its faults. -/
def State.applyLock (s : State) (e : LockEffect) : State :=
  ((s.setUnit e.unit).deliver e.answers).report .lockUnit e.faults

/-- Frames formed in one event, in an order the manual leaves open: each frame goes in before some number of the frames
formed after it, the number a free value (R133, log entry 5). Gives the next free value's number too. -/
def arrange (draw : Nat) (fs : List Frame) : List Frame × Nat :=
  match fs with
  | [] => ([], draw)
  | [f] => ([f], draw)
  | f :: fs =>
    let rest := arrange draw fs
    let k := Config.frameOrder rest.2 % (rest.1.length + 1)
    (rest.1.take k ++ f :: rest.1.drop k, rest.2 + 1)

/-- Frames formed at port `p` in one event join its send list in either order (R133). -/
def State.formFrames (s : State) (p : PortId) (fs : List Frame) : State :=
  { s.setPort p { s.port p with sendList := (s.port p).sendList ++ (arrange s.draws fs).1 } with
    draws := (arrange s.draws fs).2 }

/-! ### The supervisor's result (R174 to R176) -/

/-- The command is completed with a status and data (R175). -/
def State.finish (s : State) (status : Status) (data : List Byte) : State :=
  { s with supervisor := { s.supervisor with command := .complete, result := { status := status, data := data } } }

/-- The address byte of a write addressed to the part is acknowledged, or not (R175). -/
def State.acknowledge (s : State) (acked : Bool) : State := { s with supervisor := { s.supervisor with acked := acked } }

/-- A write transaction: not acknowledged while RESET# is low (R173) or a command is IN_PROGRESS (R175), else taken. -/
def State.command (s : State) (k : State → State) : State :=
  if s.resetLow then s.acknowledge false
  else match s.supervisor.command with
    | .inProgress _ => s.acknowledge false
    | .idle => k (s.acknowledge true)
    | .complete => k (s.acknowledge true)

/-- The I2C address: 0x58 plus the straps (R173). -/
def State.i2cAddress (s : State) : BitVec 7 := 0x58#7 + s.supervisor.straps.setWidth 7

/-- A transaction reaches the part: it carries the part's own address and RESET# is high. R173: "The part answers only its
own address. While RESET# is low it acknowledges no address byte". -/
def State.answersAddress (s : State) (address : BitVec 7) : Bool := !s.resetLow && address == s.i2cAddress

/-- What a read transaction of `n` bytes at an address returns (R175, R176): the result frame from byte 0, 0x00 beyond its
length; none where the address byte is not acknowledged (R161, R173). -/
def State.readResult (s : State) (address : BitVec 7) (n : Nat) : Option (List Byte) :=
  if s.answersAddress address then
    some (s.supervisor.result.bytes.take n ++ List.replicate (n - s.supervisor.result.bytes.length) 0)
  else none

/-- The command that a write transaction at an address carries in the bytes after the address byte (R173, R174): none at
another address, with RESET# low, and without a byte. Whether it is taken in IN_PROGRESS is `State.command`'s (R175). -/
def State.writtenCommand (s : State) (address : BitVec 7) (bytes : List Byte) : Option Instr :=
  if s.answersAddress address && !bytes.isEmpty then some (commandFrame bytes) else none

/-- An event that the part takes only while RESET# is high (R161). -/
def State.running (s : State) (k : State → State) : State := if s.resetLow then s else k s

/-! ### Ports becoming OFFLINE (R153, R181) -/

/-- The port becomes OFFLINE; a RESET_PORT in progress for it completes with DONE (R151, R153, R181). -/
def State.goOffline (s : State) (p : PortId) : State :=
  let s1 := s.setPort p { s.port p with link := .offline }
  if s.supervisor.command = .inProgress p then s1.finish .done [] else s1

/-- RESETTING ends once the claim has been taken and the port flight count is 0 (R153). -/
def State.endReset (s : State) (p : PortId) : State :=
  if (s.port p).link = .resetting ∧ (s.port p).claimDue = false ∧ (s.port p).flight = 0 then s.goOffline p else s

/-! ### Port reset (R152, R144, R148) -/

/-- The port's own part of a reset (R152, steps 1 to 5 and 7): `close` for a cause that forms NOTICE CLOSE. -/
def PortRecord.reset (r : PortRecord) (close : Bool) : PortRecord :=
  let r1 := { r with
    link := .resetting
    claimDue := true
    queue := []
    headClass := none
    stale := r.handed.isSome
    outstanding := 0
    sendList := r.sendList.filter Frame.isNotice
    badCount := 0
    receiveCount := 0 }
  if close then r1.sendNotice .close else r1

/-- Every flight-table entry naming the port becomes detached (R148). -/
def detach (p : PortId) (table : List FlightEntry) : List FlightEntry :=
  table.map (fun e => if e.port = p then { e with tag := none } else e)

/-- A chosen head that the reset discards frees the issue slot (R144). -/
def Arbiter.discard (a : Arbiter) (p : PortId) : Arbiter := if a.slot = .chosen p then { a with slot := .free } else a

/-- A port reset begins (R152). -/
def State.portReset (s : State) (p : PortId) (close : Bool) : State :=
  { s.setPort p ((s.port p).reset close) with
    memPort := { s.memPort with table := detach p s.memPort.table }
    arbiter := s.arbiter.discard p }

/-- Link loss at an ONLINE port: a LINK record with the port only, and a port reset without NOTICE CLOSE (R123). -/
def State.linkLoss (s : State) (p : PortId) : State :=
  (s.report (.port p) [{ cls := .link, port := some p }]).portReset p false

end Sys2Proof.Machine
end

