-- ==== Sys2Proof/Machine/FaultCommands.lean ====
section
/-! DEFINITION. The fault unit (10) and its commands: FAULT_REPORT, READ_FAULT, READ_ALERT, SET_ALERT_MASK, CLEAR_ALERT. -/

namespace Sys2Proof.Machine

/-- The report is one of the block's. -/
def Report.isFrom (r : Report) (src : FaultSource) : Bool := r.source == src

/-- The oldest report of a block that waits, and the reports that stay (R163: "For reports of one block it is the order of
that block's events"). -/
def nextReport (src : FaultSource) (rs : List Report) : Option (Report × List Report) :=
  (rs.find? (fun r => r.isFrom src)).map (fun r => (r, rs.eraseP (fun r => r.isFrom src)))

/-- FAULT_REPORT (R163 to R168, R171): the oldest report of the block is taken whole. Its records carry the tick counter as
it stands now, a completion's too (R164, R65; the model's choice beside R150: log entry 27). -/
def execFaultReport (src : FaultSource) (s : State) : Host.Outcome State Fault Refusal :=
  .next (s.running fun s =>
    match nextReport src s.reports with
    | none => s
    | some (r, rest) => s.takeReport r rest)

/-- READ_FAULT (R167): the oldest record is removed and returned, or EMPTY. -/
def execReadFault (s : State) : Host.Outcome State Fault Refusal :=
  .next (s.command fun s =>
    match s.faultUnit.log with
    | [] => s.finish .empty []
    | r :: rest => ({ s with faultUnit := { s.faultUnit with log := rest } } : State).finish .done r.bytes)

/-- READ_ALERT (R172): pending set, enable set, log fill. -/
def execReadAlert (s : State) : Host.Outcome State Fault Refusal :=
  .next (s.command fun s =>
    s.finish .done (classSetBytes s.faultUnit.pendingClasses ++ classSetBytes s.faultUnit.enabledClasses ++
      [byteOf s.faultUnit.log.length]))

/-- SET_ALERT_MASK (R169): the enable set is replaced, ALERT# follows; bits 15:12 are ignored. -/
def execSetAlertMask (classes : BitVec 16) (s : State) : Host.Outcome State Fault Refusal :=
  .next (s.command fun s =>
    ({ s with faultUnit := ({ s.faultUnit with enabledClasses := classes.setWidth 12 } : FaultUnit).drive } : State).finish .done [])

/-- CLEAR_ALERT (R170): the named classes leave the pending set, ALERT# follows; bits 15:12 are ignored. -/
def execClearAlert (classes : BitVec 16) (s : State) : Host.Outcome State Fault Refusal :=
  .next (s.command fun s =>
    ({ s with faultUnit := ({ s.faultUnit with
        pendingClasses := s.faultUnit.pendingClasses &&& ~~~(classes.setWidth 12) } : FaultUnit).drive } : State).finish .done [])

end Sys2Proof.Machine
end

