-- ==== Sys2Proof/Machine/Clock.lean ====
section
/-! DEFINITION. The lock clock (04): ticks, tick claims, lease expiries and timeouts. -/

namespace Sys2Proof.Machine

/-- A tick at the lock clock (R67): the counter rises, the next period begins with the latest SET_CLOCK value (R66), and a
tick claim goes to each lock record, where it waits beside claims of earlier ticks not yet taken (log entries 9, 33). -/
def LockClock.tick (c : LockClock) : LockClock :=
  { c with
    period := c.nextPeriod
    counter := c.counter + 1
    claims := Vector.ofFn (fun l : LockId => c.claims[l] + 1) }

/-- LOCK_CLOCK_TICK (R67). Reports that wait may be taken before the tick or after it (R164): by a FAULT_REPORT before or
after this command. -/
def execLockClockTick (s : State) : Host.Outcome State Fault Refusal :=
  .next (s.running fun s => { s with clock := s.clock.tick })

/-- A tick claim at lock `l`: one of the claims handed to it is taken (R67). -/
def State.takeTickClaim (s : State) (l : LockId) : State :=
  { s.setUnit (s.lockUnit.setLock l (s.lockUnit.lock l).ticked) with
    clock := { s.clock with claims := s.clock.claims.set l (s.clock.claims[l] - 1) } }

/-- TICK_CLAIM (R67). It is taken when a claim was handed to the record and no expiry of an earlier claim is still to be
taken there: "The claim and its expiries are taken before the next tick claim reaches the record" (log entry 9). A claim
lowers what stands at the record when it is taken, also a wait that joined or a lease that started after the tick of the claim.
R38 counts a wait from the next tick after the joining, and R68 gives a lease of n ticks more than n - 1 tick periods; the model
follows R67's claims for both (its choice: log entry 33). -/
def execTickClaim (l : LockId) (s : State) : Host.Outcome State Fault Refusal :=
  .next (s.running fun s =>
    if s.clock.claims[l] = 0 ∨ (s.lockUnit.lock l).expiryDue then s else s.takeTickClaim l)

/-- LEASE_EXPIRY (R69 to R71). -/
def execLeaseExpiry (l : LockId) (s : State) : Host.Outcome State Fault Refusal :=
  .next (s.running fun s => s.applyLock (s.lockUnit.leaseExpiry l))

/-- WAIT_TIMEOUT (R39). -/
def execWaitTimeout (l : LockId) (p : PortId) (s : State) : Host.Outcome State Fault Refusal :=
  .next (s.running fun s => s.applyLock (s.lockUnit.timeout l p))

end Sys2Proof.Machine
end

