-- ==== Sys2Proof/Machine/Classify.lean ====
section
/-! DEFINITION. Classification of a head (05, 06) and head handling of a port queue (07): which requests leave at once, what
is handed to the lock unit, and what waits. -/

namespace Sys2Proof.Machine

/-- The six results of a classification (Table 5-3), with what each carries on. -/
inductive Classification where
  | plain
  | guardAuthorized (lock : LockId) (window : WindowId) (policy : WritePolicy)
  | guardPassed (fault : FaultInfo)
  | blocked (fault : FaultInfo)
  | lockOp (op : LockOp)
  | misuse (op : LockOp)
deriving DecidableEq, Repr

/-- The ENABLED window whose range holds an address (R96); ENABLED ranges never overlap (R92). -/
def State.findWindow (s : State) (addr : Word) : Option (WindowId × WindowDef) :=
  (List.finRange 16).findSome? (fun w => ((s.window w).decodes addr).map (fun d => (w, d)))

/-- A record that carries port, tag, window and address (R98). -/
def accessFault (c : FaultClass) (p : PortId) (q : Request) (w : WindowId) : FaultInfo :=
  { cls := c, port := some p, tag := some q.tag, window := some w, addr := some q.addr }

/-- A GUARD_WRITE or GUARD_READ record (R106). -/
def guardFault (c : FaultClass) (p : PortId) (tag : Tag) (w : WindowId) (addr : Word) (l : LockId)
    (generation : BitVec 16) : FaultInfo :=
  { cls := c, port := some p, tag := some tag, lock := some l, window := some w, generation := some generation,
    addr := some addr }

/-- The guard check on a write (R104, Table 6-1). -/
def LockUnit.guardWrite (u : LockUnit) (p : PortId) (q : Request) (w : WindowId) (l : LockId) (policy : WritePolicy) :
    Classification :=
  if u.holdsExclusive p l then .guardAuthorized l w policy
  else
    match policy with
    | .drop => .blocked (guardFault .guardWrite p q.tag w q.addr l (u.lock l).generation)
    | .pass => .guardPassed (guardFault .guardWrite p q.tag w q.addr l (u.lock l).generation)

/-- The guard check on a read (R105, Table 6-2). -/
def LockUnit.guardRead (u : LockUnit) (p : PortId) (q : Request) (w : WindowId) (l : LockId) (policy : ReadPolicy) :
    Classification :=
  match policy with
  | .openAll => .plain
  | .drop =>
    if u.holdsLive p l then .plain
    else .blocked (guardFault .guardRead p q.tag w q.addr l (u.lock l).generation)
  | .pass =>
    if u.holdsLive p l then .plain
    else .guardPassed (guardFault .guardRead p q.tag w q.addr l (u.lock l).generation)

/-- A request in a LOCK window (R12, R13). -/
def classifySlot (p : PortId) (q : Request) (w : WindowId) (base : Nat) (first : LockId) : Classification :=
  if q.size ≠ 4 then
    .blocked { accessFault .misuse p q w with lock := slotLock (slotNumber base first q.addr) }
  else
    let op : LockOp := { kind := slotAccess q.addr q.kind, tag := q.tag, number := slotNumber base first q.addr,
                         window := w, addr := q.addr }
    if op.kind = .misuse then .misuse op else .lockOp op

/-- The classification of a request that becomes head at port `p` (R96, R97, Table 5-3). -/
def State.classify (s : State) (p : PortId) (q : Request) : Classification :=
  match s.findWindow q.addr with
  | none => .plain
  | some (w, d) =>
    match d.kind with
    | .block => .blocked (accessFault .decode p q w)
    | .lock first => classifySlot p q w d.base first
    | .guard l write read =>
      match q.kind with
      | .write => s.lockUnit.guardWrite p q w l write
      | .read => s.lockUnit.guardRead p q w l read

/-- What head handling leaves: the queue, the classification of its waiting head, the operation handed to the lock unit,
the RESPONSEs formed and the faults raised by the port. -/
structure HeadRun where
  queue : List Request
  headClass : Option HeadClass
  handed : Option LockOp
  frames : List Frame
  faults : List FaultInfo
deriving DecidableEq, Repr

/-- A BLOCKED answer: no data (R98, R132). -/
def blockedResponse (t : Tag) : Frame := .response t .blocked []

/-- The head waits in the queue with its classification (Table 7-4). -/
def waitingHead (queue : List Request) (c : HeadClass) (faults : List FaultInfo) : HeadRun :=
  { queue := queue, headClass := some c, handed := none, frames := [], faults := faults }

/-- The head leaves the queue for the lock unit; the next head is not classified until the lock unit takes it (R128). -/
def handedHead (rest : List Request) (op : LockOp) : HeadRun :=
  { queue := rest, headClass := none, handed := some op, frames := [], faults := [] }

/-- The operation waits at the release fence first (R130). -/
def LockOpKind.fenced (k : LockOpKind) : Bool := k == .release || k == .releaseLatest

/-- Head handling (Table 7-4, R127): requests leave from the head one after another until one waits there or is handed to
the lock unit. `writes` is the port write-flight count, read by the release fence (R130). -/
def State.runHeads (s : State) (p : PortId) (writes : Nat) (queue : List Request) : HeadRun :=
  match queue with
  | [] => { queue := [], headClass := none, handed := none, frames := [], faults := [] }
  | q :: qs =>
    match s.classify p q with
    | .plain => waitingHead (q :: qs) .plain []
    | .guardAuthorized l w policy => waitingHead (q :: qs) (.guardAuthorized l w policy) []
    | .guardPassed f => waitingHead (q :: qs) .guardPassed [f]
    | .blocked f =>
      let rest := s.runHeads p writes qs
      { rest with frames := blockedResponse q.tag :: rest.frames, faults := f :: rest.faults }
    | .lockOp op =>
      if op.kind.fenced && writes != 0 then waitingHead (q :: qs) (.heldRelease op) []
      else handedHead qs op
    | .misuse op => handedHead qs op

/-- The head of the port is not yet classified and may be: no operation of the port is still to be taken at the lock unit
(R128). -/
def PortRecord.mayClassify (r : PortRecord) : Bool := r.headClass.isNone && r.handed.isNone

/-- What head handling leaves at a port now. -/
def State.headRun (s : State) (p : PortId) : HeadRun :=
  let r := s.port p
  if r.mayClassify then s.runHeads p r.writeFlight r.queue
  else { queue := r.queue, headClass := r.headClass, handed := r.handed, frames := [], faults := [] }

/-- A new head is classified and handled (R96, R127), together with the frames `own` that the same event forms at the
port: all of them join the send list, and the port's faults of the event are one report (R133, R163). -/
def State.advance (s : State) (p : PortId) (own : List Frame) : State :=
  let run := s.headRun p
  ((s.setPort p { s.port p with queue := run.queue, headClass := run.headClass, handed := run.handed }).formFrames p
    (own ++ run.frames)).report (.port p) run.faults

end Sys2Proof.Machine
end

