-- ==== Sys2Proof/Machine/Link.lean ====
section
/-! DEFINITION. Frames and silence on the agent links (07): OPEN, CLOSE, REQUEST, BAD_FRAME, LINK_SILENCE, FRAME_SENT. -/

namespace Sys2Proof.Machine

/-- A good frame other than an OPEN at an ONLINE port: the receive count rises, the consecutive-bad count becomes 0
(R122). -/
def PortRecord.goodFrame (r : PortRecord) : PortRecord :=
  { r with receiveCount := r.receiveCount + 1, badCount := 0 }

/-- A REQUEST that is refused: NOTICE PROTOCOL with the frame's tag, and a LINK fault (R124, R125). -/
def State.refuseRequest (s : State) (p : PortId) (tag : Tag) (addr : Word) (reason : ProtocolReason) : State :=
  (s.setPort p ((s.port p).sendNotice (.protocol tag reason))).report (.port p) [linkFault p tag addr]

/-- A REQUEST that is accepted: its tag joins the outstanding set, it joins the queue, and as head it is classified
(R124). -/
def State.acceptRequest (s : State) (p : PortId) (q : Request) : State :=
  let r := (s.port p).addTag q.tag
  (s.setPort p { r with queue := r.queue ++ [q] }).advance p []

/-- R124's checks in their order: kind, size, alignment, tag. -/
def PortRecord.checkRequest (r : PortRecord) (kind : BitVec 4) (tag : Tag) (sizeCode : Byte) (addr : Word)
    (data : List Byte) : Except ProtocolReason Request :=
  match reqKindOf kind with
  | none => .error .badKind
  | some k =>
    match sizeBytes sizeCode with
    | none => .error .badSize
    | some n =>
      if addr.toNat % n ≠ 0 then .error .unaligned
      else if r.hasTag tag then .error .tagInUse
      else .ok { tag := tag, kind := k, size := n, addr := addr, data := data }

/-- A bad frame (R122, Table 7-3). -/
def State.takeBadFrame (s : State) (p : PortId) : State :=
  let r := s.port p
  match r.link with
  | .offline => s.setPort p (r.sendNotice (.resend 0))
  | .resetting => s
  | .online =>
    let r1 := { r with receiveCount := r.receiveCount + 1, badCount := r.badCount + 1 }
    let s1 := s.setPort p (r1.sendNotice (.resend r1.receiveCount))
    if Config.badFrameLimit ≤ r1.badCount then s1.linkLoss p else s1

/-- A good REQUEST frame (R124, R125, Table 7-3). -/
def State.takeRequest (s : State) (p : PortId) (kind : BitVec 4) (tag : Tag) (sizeCode : Byte) (addr : Word)
    (data : List Byte) : State :=
  match (s.port p).link with
  | .offline => s.refuseRequest p tag addr .notOpen
  | .resetting => s
  | .online =>
    let s1 := s.setPort p (s.port p).goodFrame
    match (s.port p).checkRequest kind tag sizeCode addr data with
    | .error reason => s1.refuseRequest p tag addr reason
    | .ok q => s1.acceptRequest p q

/-- An OPEN frame (R120, R122, Table 7-3; for the consecutive-bad count log entry 6). -/
def State.takeOpen (s : State) (p : PortId) : State :=
  let r := s.port p
  match r.link with
  | .offline =>
    if r.enabled then
      s.setPort p { r.sendNotice .openAck with link := .online, badCount := 0, receiveCount := 0 }
    else s.setPort p (r.sendNotice .openNak)
  | .online => s.setPort p { r.sendNotice .openAck with badCount := 0, receiveCount := 0 }
  | .resetting => s

/-- A CLOSE frame (R121, Table 7-3). -/
def State.takeClose (s : State) (p : PortId) : State :=
  match (s.port p).link with
  | .offline => s.setPort p ((s.port p).sendNotice .close)
  | .online => s.portReset p true
  | .resetting => s

/-- 64 µs without signal: link loss at an ONLINE port, nothing elsewhere (R123). -/
def State.takeSilence (s : State) (p : PortId) : State :=
  match (s.port p).link with
  | .online => s.linkLoss p
  | .offline => s
  | .resetting => s

/-- The last byte of the oldest frame of the send list is sent: the frame leaves the list, and a RESPONSE's tag leaves the
outstanding set (R126, R133). -/
def PortRecord.sent (r : PortRecord) : PortRecord :=
  match r.sendList with
  | [] => r
  | .notice _ :: fs => { r with sendList := fs }
  | .response tag _ _ :: fs => { r with sendList := fs }.dropTag tag

/-- OPEN (R120). -/
def execOpen (p : PortId) (s : State) : Host.Outcome State Fault Refusal :=
  .next (s.running fun s => s.takeOpen p)

/-- CLOSE (R121). -/
def execClose (p : PortId) (s : State) : Host.Outcome State Fault Refusal :=
  .next (s.running fun s => s.takeClose p)

/-- REQUEST (R124, R125). Bytes whose length does not fit their kind and size are a bad frame (R118, log entry 18). -/
def execRequest (p : PortId) (kind : BitVec 4) (tag : Tag) (sizeCode : Byte) (addr : Word) (data : List Byte)
    (s : State) : Host.Outcome State Fault Refusal :=
  .next (s.running fun s =>
    if requestLengthGood kind sizeCode data then s.takeRequest p kind tag sizeCode addr data else s.takeBadFrame p)

/-- BAD_FRAME (R122). -/
def execBadFrame (p : PortId) (s : State) : Host.Outcome State Fault Refusal :=
  .next (s.running fun s => s.takeBadFrame p)

/-- LINK_SILENCE (R123). -/
def execLinkSilence (p : PortId) (s : State) : Host.Outcome State Fault Refusal :=
  .next (s.running fun s => s.takeSilence p)

/-- FRAME_SENT (R133). -/
def execFrameSent (p : PortId) (s : State) : Host.Outcome State Fault Refusal :=
  .next (s.running fun s => s.setPort p (s.port p).sent)

end Sys2Proof.Machine
end

