-- ==== Sys2Proof/Machine/LockCommands.lean ====
section
/-! DEFINITION. The lock commands of the supervisor (R4, R5, R78, R160, R180). -/

namespace Sys2Proof.Machine

/-- DEFINE_LOCK (R4, R180). -/
def execDefineLock (lock level : Byte) (lease : BitVec 16) (leasePolicy orphanPolicy : Byte) (s : State) :
    Host.Outcome State Fault Refusal :=
  .next (s.command fun s =>
    match lockOf lock, lockParamsOf level lease leasePolicy orphanPolicy with
    | some l, some q =>
      match (s.lockUnit.lock l).state with
      | .undefined =>
        (s.setUnit (s.lockUnit.setLock l { LockRecord.powerOn with state := .free, params := some q })).finish .done []
      | .free => (s.setUnit (s.lockUnit.setLock l { s.lockUnit.lock l with params := some q })).finish .done []
      | .exclusive => s.finish .notFree []
      | .shared => s.finish .notFree []
      | .draining => s.finish .notFree []
      | .broken => s.finish .notFree []
    | _, _ => s.finish .badParam [])

/-- The lock may leave service as far as its state goes: FREE, or BROKEN with guard-flight count 0 (R5 check 1). -/
def LockRecord.removable (r : LockRecord) : Bool :=
  r.state == .free || (r.state == .broken && r.guardFlight == 0)

/-- An ENABLED GUARD window names the lock as its guarding lock (R5 check 2). -/
def State.guardedByWindow (s : State) (l : LockId) : Bool :=
  (List.finRange 16).any (fun w =>
    match s.window w with
    | .enabled d =>
      match d.kind with
      | .guard g _ _ => g == l
      | .lock _ => false
      | .block => false
    | .defined _ => false
    | .undefined => false)

/-- Some port's hold list contains an entry for the lock, live or revoked (R5 check 3). -/
def LockUnit.inSomeList (u : LockUnit) (l : LockId) : Bool :=
  (List.finRange 6).any (fun p => (u.held p).any (fun e => e.lock == l))

/-- UNDEFINE_LOCK (R5). -/
def execUndefineLock (lock : Byte) (s : State) : Host.Outcome State Fault Refusal :=
  .next (s.command fun s =>
    match lockOf lock with
    | none => s.finish .badParam []
    | some l =>
      if (s.lockUnit.lock l).removable = false then s.finish .notFree []
      else if s.guardedByWindow l then s.finish .inUse []
      else if s.lockUnit.inSomeList l then s.finish .inUse []
      else (s.setUnit (s.lockUnit.setLock l LockRecord.powerOn)).finish .done [])

/-- A revocation by command: DONE with the number of ports revoked and the state the lock was left in (R78, R180). -/
def State.forceRevoke (s : State) (l : LockId) : State :=
  (s.applyLock (s.lockUnit.revoke l)).finish .done
    [byteOf (s.lockUnit.lock l).holders.length, byteOf ((s.lockUnit.revoke l).unit.lock l).state.code]

/-- FORCE_RELEASE (R78). -/
def execForceRelease (lock : Byte) (s : State) : Host.Outcome State Fault Refusal :=
  .next (s.command fun s =>
    match lockOf lock with
    | none => s.finish .badParam []
    | some l =>
      match (s.lockUnit.lock l).state with
      | .exclusive => s.forceRevoke l
      | .shared => s.forceRevoke l
      | .undefined => s.finish .noHolder []
      | .free => s.finish .noHolder []
      | .draining => s.finish .noHolder []
      | .broken => s.finish .noHolder [])

/-- REPAIR_LOCK (R160): the lock becomes FREE with its lease stopped at 0; every other field is kept. -/
def execRepairLock (lock : Byte) (s : State) : Host.Outcome State Fault Refusal :=
  .next (s.command fun s =>
    match lockOf lock with
    | none => s.finish .badParam []
    | some l =>
      if (s.lockUnit.lock l).state ≠ .broken then s.finish .notBroken []
      else if (s.lockUnit.lock l).guardFlight ≠ 0 then s.finish .draining []
      else (s.setUnit (s.lockUnit.setLock l { (s.lockUnit.lock l).stopLease with state := .free })).finish .done [])

end Sys2Proof.Machine
end

