-- ==== Sys2Proof/Machine/LockOps.lean ====
section
/-! DEFINITION. The operations the lock unit takes from a port (01): ACQUIRE-x, TRY-x, INSPECT, RELEASE, RELEASE-LATEST,
WITHDRAW and the MISUSE access. -/

namespace Sys2Proof.Machine

/-- The lock unit takes the operation port `p` handed on, with effect `e`: words of other ports are delivered, the port's
own words and the head that waited for the taking are handled in the same event (R14, R128). The words of an operation of an
ended session are discarded (log entry 7). -/
def State.finishOp (s : State) (p : PortId) (e : LockEffect) : State :=
  let s1 := s.setPort p { s.port p with handed := none, stale := false }
  let s2 := s1.applyLock { e with answers := e.answers.filter (fun a => a.port != p) }
  s2.advance p ((s.port p).ownResponses (e.answers.filter (fun a => a.port == p)))

/-- The operation of the given kind that port `p` handed on is taken; when the port has handed on none of that kind the
event does not arise, and nothing changes (log entry 2). -/
def State.takeOp (s : State) (p : PortId) (kind : LockOpKind) (f : LockOp → LockEffect) : State :=
  match (s.port p).handed with
  | none => s
  | some op => if op.kind = kind then s.finishOp p (f op) else s

/-- ACQUIRE_EXCLUSIVE (R16, R17). -/
def execAcquireExclusive (p : PortId) (s : State) : Host.Outcome State Fault Refusal :=
  .next (s.running fun s => s.takeOp p .acquireExclusive fun op =>
    s.lockUnit.seek p op .exclusive false (s.port p).waitLimit)

/-- ACQUIRE_SHARED (R16, R17). -/
def execAcquireShared (p : PortId) (s : State) : Host.Outcome State Fault Refusal :=
  .next (s.running fun s => s.takeOp p .acquireShared fun op =>
    s.lockUnit.seek p op .shared false (s.port p).waitLimit)

/-- TRY_EXCLUSIVE (R16, R17, R59). -/
def execTryExclusive (p : PortId) (s : State) : Host.Outcome State Fault Refusal :=
  .next (s.running fun s => s.takeOp p .tryExclusive fun op =>
    s.lockUnit.seek p op .exclusive true (s.port p).waitLimit)

/-- TRY_SHARED (R16, R17, R59). -/
def execTryShared (p : PortId) (s : State) : Host.Outcome State Fault Refusal :=
  .next (s.running fun s => s.takeOp p .tryShared fun op =>
    s.lockUnit.seek p op .shared true (s.port p).waitLimit)

/-- INSPECT (R19). -/
def execInspect (p : PortId) (s : State) : Host.Outcome State Fault Refusal :=
  .next (s.running fun s => s.takeOp p .inspect fun op => s.lockUnit.inspect p op)

/-- RELEASE (R20 to R22). -/
def execRelease (p : PortId) (s : State) : Host.Outcome State Fault Refusal :=
  .next (s.running fun s => s.takeOp p .release fun op => s.lockUnit.release p op)

/-- RELEASE_LATEST (R23). -/
def execReleaseLatest (p : PortId) (s : State) : Host.Outcome State Fault Refusal :=
  .next (s.running fun s => s.takeOp p .releaseLatest fun op => s.lockUnit.releaseLatest p op)

/-- WITHDRAW (R24, R40). -/
def execWithdraw (p : PortId) (s : State) : Host.Outcome State Fault Refusal :=
  .next (s.running fun s => s.takeOp p .withdraw fun op => s.lockUnit.withdraw p op)

/-- MISUSE_ACCESS (R13). -/
def execMisuseAccess (p : PortId) (s : State) : Host.Outcome State Fault Refusal :=
  .next (s.running fun s => s.takeOp p .misuse fun op => s.lockUnit.misuse p op)

end Sys2Proof.Machine
end

