-- ==== Sys2Proof/Machine/Memory.lean ====
section
/-! DEFINITION. The issue arbiter and the memory port (08): decisions, issue, the increment claim, the issue slot and
completions. -/

namespace Sys2Proof.Machine

/-! ### Decisions (R139 to R141) -/

/-- A head that goes to memory: PLAIN, GUARD-PASSED or GUARD-AUTHORIZED (R139). -/
def HeadClass.memoryBound (c : HeadClass) : Bool :=
  match c with
  | .plain => true
  | .guardPassed => true
  | .guardAuthorized _ _ _ => true
  | .heldRelease _ => false

/-- The port is eligible: a memory-bound head, and room in the flight table (R139). A chosen head holds the issue slot, so
while the slot is free no head is chosen. -/
def State.eligible (s : State) (p : PortId) : Bool :=
  (s.port p).headClass.any HeadClass.memoryBound && decide (s.memPort.table.length < Config.flightCapacity)

/-- The port is eligible and in the class. -/
def State.eligibleIn (s : State) (c : PortClass) (p : PortId) : Bool := (s.port p).cls == c && s.eligible p

/-- The ports in round-robin order from a pointer: P0 follows P5 (R141). -/
def ringFrom (start : PortId) : List PortId := (List.finRange 6).map (fun k => start + k)

/-- The first eligible port of a class from its pointer (R141). -/
def State.pick (s : State) (c : PortClass) (start : PortId) : Option PortId := (ringFrom start).find? (s.eligibleIn c)

/-- A FORE port is chosen: its pointer moves past it, the slot is held (R141). -/
def Arbiter.chooseFore (a : Arbiter) (p : PortId) (grants : Nat) : Arbiter :=
  { a with fore := p + 1, foreGrants := grants, slot := .chosen p }

/-- A BACK port is chosen: its pointer moves past it, the fore-grant count becomes 0 (R141). -/
def Arbiter.chooseBack (a : Arbiter) (p : PortId) : Arbiter := { a with back := p + 1, foreGrants := 0, slot := .chosen p }

/-- The decision of the arbiter (R141), from the eligible FORE port and BACK port that the pointers reach first. -/
def Arbiter.decision (a : Arbiter) (fore back : Option PortId) : Arbiter :=
  match fore, back with
  | none, none => a
  | some f, none => a.chooseFore f 0
  | none, some b => a.chooseBack b
  | some f, some b => if a.weight ≤ a.foreGrants then a.chooseBack b else a.chooseFore f (a.foreGrants + 1)

/-- ISSUE_DECISION (R139, R141): with the slot free and a port eligible. -/
def execIssueDecision (s : State) : Host.Outcome State Fault Refusal :=
  .next (s.running fun s =>
    if s.arbiter.slot = .free then
      { s with arbiter := s.arbiter.decision (s.pick .fore s.arbiter.fore) (s.pick .back s.arbiter.back) }
    else s)

/-! ### Issue (R142, R143) -/

/-- The port after its head was issued: counts raised, the head gone (R129). -/
def PortRecord.issued (r : PortRecord) (q : Request) : PortRecord :=
  { r with
    queue := r.queue.tail
    headClass := none
    flight := r.flight + 1
    writeFlight := if q.kind = .write then r.writeFlight + 1 else r.writeFlight }

/-- The RESPONSE formed at issue: OK without data for a write, none for a read (R129, R142). -/
def issueFrames (q : Request) : List Frame := if q.kind = .write then [.response q.tag .ok []] else []

/-- The head `q` of port `p` is issued (R142), with the guard lock its entry records (R143). -/
def State.issueHead (s : State) (p : PortId) (q : Request) (guard : Option LockId) : State :=
  ({ s.setPort p ((s.port p).issued q) with
     memPort := { s.memPort with
       table := s.memPort.table ++
         [{ port := p, tag := some q.tag, kind := q.kind, size := q.size, addr := q.addr, guard := guard }] }
     arbiter := { s.arbiter with
       slot := .sending { kind := q.kind, size := q.size, addr := q.addr, data := q.data } } } : State).advance p (issueFrames q)

/-- The head of a dropped write leaves unsent, answered BLOCKED, and the slot becomes free (R143). -/
def State.dropHead (s : State) (p : PortId) (q : Request) : State :=
  ({ s.setPort p { s.port p with queue := (s.port p).queue.tail, headClass := none } with
     arbiter := { s.arbiter with slot := .free } } : State).advance p [blockedResponse q.tag]

/-- The chosen port with its head and the head's classification. -/
def State.chosenHead (s : State) : Option (PortId × Request × HeadClass) :=
  match s.arbiter.slot with
  | .free => none
  | .sending _ => none
  | .chosen p =>
    match (s.port p).queue.head?, (s.port p).headClass with
    | some q, some c => some (p, q, c)
    | _, _ => none

/-- ISSUE (R142): the chosen head, classified PLAIN or GUARD-PASSED. -/
def execIssue (s : State) : Host.Outcome State Fault Refusal :=
  .next (s.running fun s =>
    match s.chosenHead with
    | some (p, q, .plain) => s.issueHead p q none
    | some (p, q, .guardPassed) => s.issueHead p q none
    | some (_, _, .guardAuthorized _ _ _) => s
    | some (_, _, .heldRelease _) => s
    | none => s)

/-- The claim of a chosen GUARD-AUTHORIZED write at its guarding lock, and what follows (R75, R143). An entry that is not
live and EXCLUSIVE is handled as a revoked one (log entry 13). -/
def State.claimHead (s : State) (p : PortId) (q : Request) (l : LockId) (w : WindowId) (policy : WritePolicy) : State :=
  if s.lockUnit.holdsExclusive p l then (s.setUnit (s.lockUnit.countGuarded l)).issueHead p q (some l)
  else
    let s1 := s.report .lockUnit [guardFault .guardWrite p q.tag w q.addr l (s.lockUnit.lock l).generation]
    match policy with
    | .pass => s1.issueHead p q none
    | .drop => s1.dropHead p q

/-- INCREMENT_CLAIM (R75, R143): the chosen head, classified GUARD-AUTHORIZED. -/
def execIncrementClaim (s : State) : Host.Outcome State Fault Refusal :=
  .next (s.running fun s =>
    match s.chosenHead with
    | some (p, q, .guardAuthorized l w policy) => s.claimHead p q l w policy
    | some (_, _, .plain) => s
    | some (_, _, .guardPassed) => s
    | some (_, _, .heldRelease _) => s
    | none => s)

/-- ISSUE_SLOT_FREED (R142): the last byte of the issued request is sent. -/
def execIssueSlotFreed (s : State) : Host.Outcome State Fault Refusal :=
  .next (s.running fun s =>
    match s.arbiter.slot with
    | .sending _ => { s with arbiter := { s.arbiter with slot := .free } }
    | .free => s
    | .chosen _ => s)

/-! ### Completions (R145 to R148) -/

/-- A completion is read as FAIL: reported so, or an OK read with a number of bytes other than its size (R145). -/
def FlightEntry.fails (e : FlightEntry) (result : MemResult) (data : List Byte) : Bool :=
  match result with
  | .fail => true
  | .ok => e.kind == .read && data.length != e.size

/-- The port's flight counts fall by one (R129). -/
def PortRecord.completed (r : PortRecord) (kind : ReqKind) : PortRecord :=
  { r with
    flight := r.flight - 1
    writeFlight := if kind = .write then r.writeFlight - 1 else r.writeFlight }

/-- The release fence opens when the port write-flight count is 0: the held release goes to the lock unit and leaves the
queue (R130). -/
def PortRecord.openFence (r : PortRecord) : PortRecord :=
  match r.headClass with
  | some (.heldRelease op) =>
    if r.writeFlight = 0 then { r with queue := r.queue.tail, headClass := none, handed := some op } else r
  | some .plain => r
  | some .guardPassed => r
  | some (.guardAuthorized _ _ _) => r
  | none => r

/-- The RESPONSE of a completed read: none when detached (R146). -/
def readFrames (e : FlightEntry) (failed : Bool) (data : List Byte) : List Frame :=
  match e.tag with
  | none => []
  | some t => [if failed then .response t .memfail [] else .response t .ok data]

/-- A MEM_READ or MEM_WRITE record without a lock (R146, R147): the tag absent for a detached entry. -/
def memFault (c : FaultClass) (e : FlightEntry) : FaultInfo :=
  { cls := c, port := some e.port, tag := e.tag, addr := some e.addr }

/-- The completion of a read entry (R146). -/
def State.completeRead (s : State) (e : FlightEntry) (failed : Bool) (data : List Byte) : State :=
  (((s.setPort e.port ((s.port e.port).completed .read)).formFrames e.port (readFrames e failed data)).report .memPort
    (if failed then [memFault .memRead e] else [])).endReset e.port

/-- The port's part of the completion of a write entry: counts, then the fence, then the end of RESETTING (R147, R130,
R153). -/
def State.completeAtPort (s : State) (e : FlightEntry) : State :=
  (s.setPort e.port ((s.port e.port).completed .write).openFence).endReset e.port

/-- The completion of a write entry (R147): taken first at the guard lock when the entry records one. -/
def State.completeWrite (s : State) (e : FlightEntry) (failed : Bool) : State :=
  match e.guard with
  | none => (s.report .memPort (if failed then [memFault .memWrite e] else [])).completeAtPort e
  | some l => (s.applyLock (s.lockUnit.completeGuarded l e failed)).completeAtPort e

/-- The oldest entry leaves the flight table and its completion is handed on (R145). -/
def State.complete (s : State) (e : FlightEntry) (rest : List FlightEntry) (result : MemResult) (data : List Byte) :
    State :=
  let s1 := { s with memPort := { s.memPort with table := rest } }
  match e.kind with
  | .read => s1.completeRead e (e.fails result data) data
  | .write => s1.completeWrite e (e.fails result data)

/-- MEM_COMPLETION (R145, R149): a completion of another session, or one that finds the table empty, is discarded. -/
def execMemCompletion (session : Nat) (result : MemResult) (data : List Byte) (s : State) :
    Host.Outcome State Fault Refusal :=
  .next (s.running fun s =>
    if session = s.memPort.session then
      match s.memPort.table with
      | [] => s
      | e :: rest => s.complete e rest result data
    else s)

end Sys2Proof.Machine
end

