-- ==== Sys2Proof/Machine/PortReset.lean ====
section
/-! DEFINITION. The port-gone claim (09, R154): the lock unit's part of a port reset. -/

namespace Sys2Proof.Machine

/-- The claim is taken at the lock unit, and RESETTING ends if the port flight count is 0 (R153, R154). -/
def State.takeClaim (s : State) (p : PortId) : State :=
  let s1 := s.applyLock (s.lockUnit.claim p)
  (s1.setPort p { s1.port p with claimDue := false }).endReset p

/-- Whether the claim of a port may be taken before an operation of this kind that the port handed on before its reset. A
WITHDRAW may find that the claim has removed its wait (R45: "If the claim is taken first, the tick or the WITHDRAW finds no
record"), and an INSPECT or a MISUSE access leaves nothing behind (R14). A release does not race with the claim (R63), and an
acquisition taken after the claim would leave an OFFLINE port with an entry or a wait, against R153: these come first (log
entry 7). -/
def LockOpKind.claimMayPass (k : LockOpKind) : Bool :=
  match k with
  | .withdraw => true
  | .inspect => true
  | .misuse => true
  | .acquireExclusive => false
  | .acquireShared => false
  | .tryExclusive => false
  | .tryShared => false
  | .release => false
  | .releaseLatest => false

/-- The port has handed its claim on (R152), and no operation of the port has to be taken first. -/
def PortRecord.claimReady (r : PortRecord) : Bool := r.claimDue && r.handed.all (fun op => op.kind.claimMayPass)

/-- PORT_GONE_CLAIM (R154), taken before or after an operation of the port as `claimReady` allows. -/
def execPortGoneClaim (p : PortId) (s : State) : Host.Outcome State Fault Refusal :=
  .next (s.running fun s => if (s.port p).claimReady then s.takeClaim p else s)

end Sys2Proof.Machine
end

