-- ==== Sys2Proof/Machine/Power.lean ====
section
/-! DEFINITION. POWER_ON, RESET_ASSERT and RESET_RELEASE (R161, R173). -/

namespace Sys2Proof.Machine

/-- Every block at its power-on values (R161, Table 9-2), with RESET# and the straps given. What is the model's own
stays: the queue of commands, the number of free values used, and the numbering of link sessions. -/
def State.powerOnValues (s : State) (resetLow : Bool) (straps : BitVec 3) (session : Nat) : State :=
  { State.reset with
    resetLow := resetLow
    memPort := { State.reset.memPort with session := session }
    supervisor := { State.reset.supervisor with straps := straps }
    draws := s.draws
    pending := s.pending }

/-- POWER_ON: every block takes its power-on values; with RESET# high the straps are sampled once (R173). The memory port
opens a session (R149, log entry 12). -/
def execPowerOn (resetHigh : Bool) (straps : BitVec 3) (s : State) : Host.Outcome State Fault Refusal :=
  .next (s.powerOnValues (!resetHigh) straps (s.memPort.session + 1))

/-- RESET_ASSERT: RESET# goes low (R161): every block at its power-on values, a command in progress abandoned. -/
def execResetAssert (straps : BitVec 3) (s : State) : Host.Outcome State Fault Refusal :=
  .next (s.powerOnValues true straps s.memPort.session)

/-- RESET_RELEASE: RESET# returns high (R161): the straps sampled last set the I2C address (R173) and the memory port
opens a new session (R149). With RESET# high there is no such event, and nothing changes (log entry 17). -/
def execResetRelease (straps : BitVec 3) (s : State) : Host.Outcome State Fault Refusal :=
  if s.resetLow then .next (s.powerOnValues false straps (s.memPort.session + 1)) else .next s

end Sys2Proof.Machine
end

