-- ==== Sys2Proof/Machine/Supervisor.lean ====
section
/-! DEFINITION. The supervisor port (11): malformed and refused writes, the settings, RESET_PORT, snapshots and READ_STATUS. -/

namespace Sys2Proof.Machine

/-- BAD_COMMAND_FRAME (R174): answered BAD_PARAM. A write without a byte after the address is no command, and bytes whose
form is right are another command's frame (log entry 18). -/
def execBadCommandFrame (bytes : List Byte) (s : State) : Host.Outcome State Fault Refusal :=
  .next (s.command fun s => if bytes.isEmpty || commandFormGood bytes then s else s.finish .badParam [])

/-- COMMAND_WRITE_NAK (R175): the address byte is not acknowledged and the transaction is ignored, with a command
IN_PROGRESS or with RESET# low (R173). Otherwise the event does not arise (log entry 2). -/
def execCommandWriteNak (s : State) : Host.Outcome State Fault Refusal :=
  if s.resetLow then .next (s.acknowledge false)
  else match s.supervisor.command with
    | .inProgress _ => .next (s.acknowledge false)
    | .idle => .next s
    | .complete => .next s

/-- SET_CLOCK (R66, R178): the period already running is not altered. -/
def execSetClock (period : BitVec 16) (s : State) : Host.Outcome State Fault Refusal :=
  .next (s.command fun s =>
    if 1 ≤ period.toNat ∧ period.toNat ≤ 1000 then
      ({ s with clock := { s.clock with nextPeriod := period } } : State).finish .done []
    else s.finish .badParam [])

/-- The three items of a SET_PORT are written; disabling an ONLINE port starts a port reset (R135). -/
def State.setPortItems (s : State) (p : PortId) (enabled : Bool) (cls : PortClass) (limit : BitVec 16) : State :=
  let s1 := s.setPort p { s.port p with enabled := enabled, cls := cls, waitLimit := limit }
  if (s.port p).link = .online ∧ enabled = false then s1.portReset p true else s1

/-- SET_PORT (R135, R178). -/
def execSetPort (port enable cls : Byte) (limit : BitVec 16) (s : State) : Host.Outcome State Fault Refusal :=
  .next (s.command fun s =>
    match portOf port, enableOf enable, classOf cls with
    | some p, some e, some c => (s.setPortItems p e c limit).finish .done []
    | _, _, _ => s.finish .badParam [])

/-- SET_WEIGHT (R140, R178): the fore-grant count keeps its value. -/
def execSetWeight (k : Byte) (s : State) : Host.Outcome State Fault Refusal :=
  .next (s.command fun s =>
    if 1 ≤ k.toNat ∧ k.toNat ≤ 8 then
      ({ s with arbiter := { s.arbiter with weight := k.toNat } } : State).finish .done []
    else s.finish .badParam [])

/-- The command state becomes IN_PROGRESS for port `p`; reads return IN_PROGRESS with length 0 (R175, R181). -/
def State.startResetCommand (s : State) (p : PortId) : State :=
  { s with supervisor := { s.supervisor with command := .inProgress p, result := { status := .inProgress, data := [] } } }

/-- RESET_PORT (R151, R181). -/
def execResetPort (port : Byte) (s : State) : Host.Outcome State Fault Refusal :=
  .next (s.command fun s =>
    match portOf port with
    | none => s.finish .badParam []
    | some p =>
      match (s.port p).link with
      | .offline => s.finish .done []
      | .online => (s.portReset p true).startResetCommand p
      | .resetting => s.startResetCommand p)

/-- A snapshot is latched in an empty buffer; a latched one is kept (R182). -/
def State.latch (s : State) (x : Snapshot) : State :=
  match s.supervisor.snapshot with
  | some _ => s.finish .stillLatched []
  | none => ({ s with supervisor := { s.supervisor with snapshot := some x } } : State).finish .done []

/-- SNAPSHOT_LOCK (R182). -/
def execSnapshotLock (lock : Byte) (s : State) : Host.Outcome State Fault Refusal :=
  .next (s.command fun s =>
    match lockOf lock with
    | none => s.finish .badParam []
    | some l => s.latch (.lock l (s.lockUnit.lock l)))

/-- The pending wait of a port as a snapshot shows it (R64). -/
def LockUnit.waitView (u : LockUnit) (p : PortId) : Option WaitView :=
  match u.wait p with
  | none => none
  | some l => (u.waiterOf l p).map (fun w => { lock := l, mode := w.mode, tag := w.tag })

/-- The head waits at the release fence (R137). -/
def PortRecord.atFence (r : PortRecord) : Bool :=
  match r.headClass with
  | some (.heldRelease _) => true
  | some .plain => false
  | some .guardPassed => false
  | some (.guardAuthorized _ _ _) => false
  | none => false

/-- The copy a port snapshot takes (R137, R182, R184). -/
def State.portView (s : State) (p : PortId) : PortView :=
  let r := s.port p
  { link := r.link, enabled := r.enabled, cls := r.cls, atFence := r.atFence, waitLimit := r.waitLimit,
    outstanding := r.outstanding, queued := r.queue.length, flight := r.flight, writeFlight := r.writeFlight,
    badCount := r.badCount, wait := s.lockUnit.waitView p, holds := s.lockUnit.held p }

/-- SNAPSHOT_PORT (R182). -/
def execSnapshotPort (port : Byte) (s : State) : Host.Outcome State Fault Refusal :=
  .next (s.command fun s =>
    match portOf port with
    | none => s.finish .badParam []
    | some p => s.latch (.port p (s.portView p)))

/-- READ_SNAPSHOT (R182): the snapshot is returned and the buffer emptied, or EMPTY. -/
def execReadSnapshot (s : State) : Host.Outcome State Fault Refusal :=
  .next (s.command fun s =>
    match s.supervisor.snapshot with
    | none => s.finish .empty []
    | some x => ({ s with supervisor := { s.supervisor with snapshot := none } } : State).finish .done x.bytes)

/-- READ_STATUS (R186): it changes nothing. All values are read from one state: R177 leaves the order among values of different
blocks open, and the one instant is the model's choice (log entry 30). -/
def execReadStatus (s : State) : Host.Outcome State Fault Refusal :=
  .next (s.command fun s =>
    s.finish .done ((List.finRange 6).map (fun p => byteOf (s.port p).link.code) ++ bytes32 s.clock.counter ++
      [byteOf s.faultUnit.log.length, byteOf s.memPort.table.length]))

end Sys2Proof.Machine
end

