-- ==== Sys2Proof/Machine/WindowCommands.lean ====
section
/-! DEFINITION. The window commands (05, R89 to R95, R179). -/

namespace Sys2Proof.Machine

/-- The window is ENABLED. -/
def WindowRecord.isEnabled (r : WindowRecord) : Bool :=
  match r with
  | .enabled _ => true
  | .defined _ => false
  | .undefined => false

/-- DEFINE_WINDOW (R89, R90): parameters first, then the state. -/
def execDefineWindow (window : Byte) (base pages : BitVec 32) (kind lockRef writePolicy readPolicy : Byte) (s : State) :
    Host.Outcome State Fault Refusal :=
  .next (s.command fun s =>
    match windowOf window, windowDefOf base pages kind lockRef writePolicy readPolicy with
    | some w, some d =>
      if (s.window w).isEnabled then s.finish .inUse []
      else (s.setWindow w (.defined d)).finish .done []
    | _, _ => s.finish .badParam [])

/-- The lowest-numbered ENABLED window, other than `w`, that shares a page with range `d` (R91 check 4, R92). -/
def State.overlapping (s : State) (w : WindowId) (d : WindowDef) : Option WindowId :=
  (List.finRange 16).find? (fun v =>
    v != w && match s.window v with
      | .enabled e => d.overlaps e
      | .defined _ => false
      | .undefined => false)

/-- The window is a GUARD window whose guarding lock is UNDEFINED (R91 check 3). -/
def State.guardsUndefined (s : State) (d : WindowDef) : Bool :=
  match d.kind with
  | .guard l _ _ => (s.lockUnit.lock l).state == .undefined
  | .lock _ => false
  | .block => false

/-- ENABLE_WINDOW (R91). -/
def execEnableWindow (window : Byte) (s : State) : Host.Outcome State Fault Refusal :=
  .next (s.command fun s =>
    match windowOf window with
    | none => s.finish .badParam []
    | some w =>
      match s.window w with
      | .undefined => s.finish .notDefined []
      | .enabled _ => s.finish .notDefined []
      | .defined d =>
        if s.guardsUndefined d then s.finish .notDefined []
        else
          match s.overlapping w d with
          | some v => s.finish .overlap [byteOf v.val]
          | none => (s.setWindow w (.enabled d)).finish .done [])

/-- A mapped lock is busy (R93): holders, waiters, a revoked entry standing, or DRAINING. -/
def LockUnit.busy (u : LockUnit) (l : LockId) : Bool :=
  !(u.lock l).holders.isEmpty || !(u.lock l).waiters.isEmpty || (u.lock l).state == .draining ||
    (List.finRange 6).any (fun p => (u.held p).any (fun e => e.lock == l && e.revoked))

/-- The lowest-numbered busy lock that a LOCK window of `pages` pages from lock `first` maps (R93). -/
def LockUnit.busyMapped (u : LockUnit) (first : LockId) (pages : Nat) : Option LockId :=
  (List.finRange 64).find? (fun l =>
    decide (first.val ≤ l.val) && decide (l.val < first.val + Config.slotsPerPage * pages) && u.busy l)

/-- The lock that keeps an ENABLED window from being disabled (R93, R94). -/
def LockUnit.keepsEnabled (u : LockUnit) (d : WindowDef) : Option LockId :=
  match d.kind with
  | .lock first => u.busyMapped first d.pages
  | .guard _ _ _ => none
  | .block => none

/-- DISABLE_WINDOW (R93, R94). -/
def execDisableWindow (window : Byte) (s : State) : Host.Outcome State Fault Refusal :=
  .next (s.command fun s =>
    match windowOf window with
    | none => s.finish .badParam []
    | some w =>
      match s.window w with
      | .undefined => s.finish .notDefined []
      | .defined _ => s.finish .done []
      | .enabled d =>
        match s.lockUnit.keepsEnabled d with
        | some l => s.finish .inUse [byteOf l.val]
        | none => (s.setWindow w (.defined d)).finish .done [])

/-- READ_WINDOW (R95, R179). -/
def execReadWindow (window : Byte) (s : State) : Host.Outcome State Fault Refusal :=
  .next (s.command fun s =>
    match windowOf window with
    | none => s.finish .badParam []
    | some w => s.finish .done (windowBytes w (s.window w)))

end Sys2Proof.Machine
end

