-- ==== Sys2Proof/Machine/Dispatch.lean ====
section
/-! DEFINITION. The dispatch: one arm for each command, a direct call of its meaning. -/

namespace Sys2Proof.Machine

def exec (i : Instr) (s : State) : Host.Outcome State Fault Refusal :=
  match i with
  | .powerOn resetHigh straps => Sys2Proof.Machine.execPowerOn resetHigh straps s
  | .resetAssert straps => Sys2Proof.Machine.execResetAssert straps s
  | .resetRelease straps => Sys2Proof.Machine.execResetRelease straps s
  | .openFrame p => Sys2Proof.Machine.execOpen p s
  | .closeFrame p => Sys2Proof.Machine.execClose p s
  | .request p kind tag sizeCode addr data => Sys2Proof.Machine.execRequest p kind tag sizeCode addr data s
  | .badFrame p => Sys2Proof.Machine.execBadFrame p s
  | .linkSilence p => Sys2Proof.Machine.execLinkSilence p s
  | .frameSent p => Sys2Proof.Machine.execFrameSent p s
  | .acquireExclusive p => Sys2Proof.Machine.execAcquireExclusive p s
  | .acquireShared p => Sys2Proof.Machine.execAcquireShared p s
  | .tryExclusive p => Sys2Proof.Machine.execTryExclusive p s
  | .tryShared p => Sys2Proof.Machine.execTryShared p s
  | .inspect p => Sys2Proof.Machine.execInspect p s
  | .release p => Sys2Proof.Machine.execRelease p s
  | .releaseLatest p => Sys2Proof.Machine.execReleaseLatest p s
  | .withdraw p => Sys2Proof.Machine.execWithdraw p s
  | .misuseAccess p => Sys2Proof.Machine.execMisuseAccess p s
  | .lockClockTick => Sys2Proof.Machine.execLockClockTick s
  | .tickClaim l => Sys2Proof.Machine.execTickClaim l s
  | .leaseExpiry l => Sys2Proof.Machine.execLeaseExpiry l s
  | .waitTimeout l p => Sys2Proof.Machine.execWaitTimeout l p s
  | .issueDecision => Sys2Proof.Machine.execIssueDecision s
  | .issue => Sys2Proof.Machine.execIssue s
  | .incrementClaim => Sys2Proof.Machine.execIncrementClaim s
  | .issueSlotFreed => Sys2Proof.Machine.execIssueSlotFreed s
  | .memCompletion session result data => Sys2Proof.Machine.execMemCompletion session result data s
  | .portGoneClaim p => Sys2Proof.Machine.execPortGoneClaim p s
  | .faultReport src => Sys2Proof.Machine.execFaultReport src s
  | .badCommandFrame bytes => Sys2Proof.Machine.execBadCommandFrame bytes s
  | .commandWriteNak => Sys2Proof.Machine.execCommandWriteNak s
  | .setClock period => Sys2Proof.Machine.execSetClock period s
  | .setPort port enable cls limit => Sys2Proof.Machine.execSetPort port enable cls limit s
  | .setWeight k => Sys2Proof.Machine.execSetWeight k s
  | .defineWindow window base pages kind lockRef writePolicy readPolicy => Sys2Proof.Machine.execDefineWindow window base pages kind lockRef writePolicy readPolicy s
  | .enableWindow window => Sys2Proof.Machine.execEnableWindow window s
  | .disableWindow window => Sys2Proof.Machine.execDisableWindow window s
  | .readWindow window => Sys2Proof.Machine.execReadWindow window s
  | .defineLock lock level lease leasePolicy orphanPolicy => Sys2Proof.Machine.execDefineLock lock level lease leasePolicy orphanPolicy s
  | .undefineLock lock => Sys2Proof.Machine.execUndefineLock lock s
  | .forceRelease lock => Sys2Proof.Machine.execForceRelease lock s
  | .repairLock lock => Sys2Proof.Machine.execRepairLock lock s
  | .resetPort port => Sys2Proof.Machine.execResetPort port s
  | .snapshotLock lock => Sys2Proof.Machine.execSnapshotLock lock s
  | .snapshotPort port => Sys2Proof.Machine.execSnapshotPort port s
  | .readSnapshot => Sys2Proof.Machine.execReadSnapshot s
  | .readFault => Sys2Proof.Machine.execReadFault s
  | .readAlert => Sys2Proof.Machine.execReadAlert s
  | .setAlertMask classes => Sys2Proof.Machine.execSetAlertMask classes s
  | .clearAlert classes => Sys2Proof.Machine.execClearAlert classes s
  | .readStatus => Sys2Proof.Machine.execReadStatus s

end Sys2Proof.Machine
end

