-- ==== Sys2Proof/Safety.lean ====
section
/-! DEFINITION. The vocabulary of the statements: when the part takes an event, what counts as an answer, what an event
keeps, and the laws of the manual that every reachable state obeys. -/

namespace Sys2Proof.Machine

/-! ### When an event or a command is taken -/

/-- The supervisor port takes a command: RESET# is high and none is IN_PROGRESS (R173, R175). -/
def State.ready (s : State) : Prop := s.resetLow = false ∧ ∀ p, s.supervisor.command ≠ .inProgress p

/-- The supervisor's command is answered: its write is acknowledged and its result frame formed (R175). -/
def State.answered (s : State) (status : Status) (data : List Byte) : State := (s.acknowledge true).finish status data

/-- Port `p` has handed operation `op` to the lock unit, which has not taken it yet, and RESET# is high (R128). -/
def State.offers (s : State) (p : PortId) (op : LockOp) : Prop := s.resetLow = false ∧ (s.port p).handed = some op

/-- ACQUIRE-x (`tryOnly` false) or TRY-x (`tryOnly` true) in mode `m`, as a command. -/
def seekCommand (p : PortId) (m : Mode) (tryOnly : Bool) : Instr :=
  match m, tryOnly with
  | .exclusive, false => .acquireExclusive p
  | .shared, false => .acquireShared p
  | .exclusive, true => .tryExclusive p
  | .shared, true => .tryShared p

/-- The same as a kind of lock operation. -/
def seekKind (m : Mode) (tryOnly : Bool) : LockOpKind :=
  match m, tryOnly with
  | .exclusive, false => .acquireExclusive
  | .shared, false => .acquireShared
  | .exclusive, true => .tryExclusive
  | .shared, true => .tryShared

/-- The port and kind of a command that is an operation taken at the lock unit. -/
def slotCommand (c : Instr) : Option (PortId × LockOpKind) :=
  match c with
  | .acquireExclusive p => some (p, .acquireExclusive)
  | .acquireShared p => some (p, .acquireShared)
  | .tryExclusive p => some (p, .tryExclusive)
  | .tryShared p => some (p, .tryShared)
  | .inspect p => some (p, .inspect)
  | .release p => some (p, .release)
  | .releaseLatest p => some (p, .releaseLatest)
  | .withdraw p => some (p, .withdraw)
  | .misuseAccess p => some (p, .misuse)
  | _ => none

/-- What the lock unit does with an operation of kind `k` that port `p` has handed on (R13 to R24). -/
def State.slotEffect (s : State) (p : PortId) (k : LockOpKind) (op : LockOp) : LockEffect :=
  match k with
  | .acquireExclusive => s.lockUnit.seek p op .exclusive false (s.port p).waitLimit
  | .acquireShared => s.lockUnit.seek p op .shared false (s.port p).waitLimit
  | .tryExclusive => s.lockUnit.seek p op .exclusive true (s.port p).waitLimit
  | .tryShared => s.lockUnit.seek p op .shared true (s.port p).waitLimit
  | .inspect => s.lockUnit.inspect p op
  | .release => s.lockUnit.release p op
  | .releaseLatest => s.lockUnit.releaseLatest p op
  | .withdraw => s.lockUnit.withdraw p op
  | .misuse => s.lockUnit.misuse p op

/-- The lock that an operation reaches: the one its slot names, and for a RELEASE-LATEST that of the port's newest entry
(R14, R23). -/
def LockUnit.reaches (u : LockUnit) (p : PortId) (k : LockOpKind) (op : LockOp) (l : LockId) : Prop :=
  if k = .releaseLatest then (u.held p).getLast?.map HoldEntry.lock = some l else l.val = op.number

/-- The events and commands that are taken with RESET# low: power-on and the two edges of RESET#. -/
def isResetCommand (c : Instr) : Bool :=
  match c with
  | .powerOn _ _ => true
  | .resetAssert _ => true
  | .resetRelease _ => true
  | _ => false

/-- The commands that arrive as write transactions of the supervisor (Table 11-3, R174, R175). -/
def isSupervisorWrite (c : Instr) : Bool :=
  (commandBytes c).isSome ||
    match c with
    | .badCommandFrame _ => true
    | .commandWriteNak => true
    | _ => false

/-! ### Answers, reports and what is kept -/

/-- The RESPONSEs of port `q` to the words handed to it, in their order: those whose tag is still outstanding (R128, R45,
R153). -/
def State.wordsTo (s : State) (q : PortId) (answers : List Answer) : List Frame :=
  (answers.filter (fun a => a.port == q && (s.port q).hasTag a.tag)).map (fun a => wordResponse a.tag a.word)

/-- The reports of one block that wait for the fault unit, oldest first. -/
def State.reportsFrom (s : State) (src : FaultSource) : List Report := s.reports.filter (fun r => r.isFrom src)

/-- The faults of one event as reports of its block: none, or one (R163). -/
def asReport (src : FaultSource) (faults : List FaultInfo) : List Report :=
  if faults = [] then [] else [{ source := src, faults := faults }]

/-- What no event at the lock unit changes: everything outside the lock unit, the ports, the reports, the supervisor port
and the count of free values. -/
def SameElsewhere (s t : State) : Prop :=
  t.resetLow = s.resetLow ∧ t.clock = s.clock ∧ t.windows = s.windows ∧ t.arbiter = s.arbiter ∧ t.memPort = s.memPort ∧
    t.faultUnit = s.faultUnit ∧ t.pending = s.pending

/-- An event at the lock unit has had effect `e`, and nothing but `e`: the lock unit, the words as RESPONSEs of their ports,
and one report of its faults. The supervisor port is named by the statement. -/
def LockEvent (s t : State) (e : LockEffect) : Prop :=
  t.lockUnit = e.unit ∧
  (∀ q, t.port q = { s.port q with sendList := (s.port q).sendList ++ s.wordsTo q e.answers }) ∧
  (∀ src, t.reportsFrom src = s.reportsFrom src ++ if src = .lockUnit then asReport src e.faults else []) ∧
  SameElsewhere s t ∧ t.draws = s.draws

/-- The operation that port `p` handed on has been taken with effect `e` (R14, R128), and in the same event the port has
handled the head that waited for the taking: its frames are the words to it and those of head handling, in some order
(R133). The words of an operation whose session has ended are discarded (R126, R153, log entry 7). Nothing else has changed. -/
def OpTaken (s t : State) (p : PortId) (e : LockEffect) : Prop :=
  let run := ({ s.setPort p { s.port p with handed := none, stale := false } with lockUnit := e.unit } : State).headRun p
  t.lockUnit = e.unit ∧
  (∃ fs, List.Perm fs ((if (s.port p).stale then [] else s.wordsTo p e.answers) ++ run.frames) ∧ t.port p = { s.port p with
    queue := run.queue, headClass := run.headClass, handed := run.handed, stale := false, sendList := (s.port p).sendList ++ fs }) ∧
  (∀ q, q ≠ p → t.port q = { s.port q with sendList := (s.port q).sendList ++ s.wordsTo q e.answers }) ∧
  (∀ src, t.reportsFrom src = s.reportsFrom src ++
    if src = .lockUnit then asReport src e.faults else if src = .port p then asReport src run.faults else []) ∧
  SameElsewhere s t ∧ t.supervisor = s.supervisor

/-- Every block but the supervisor's straps, the link session and the model's own fields holds its value of Table 9-2. -/
def State.holdsPowerOnValues (s : State) : Prop :=
  s.lockUnit = State.reset.lockUnit ∧ s.clock = State.reset.clock ∧ s.windows = State.reset.windows ∧
    s.ports = State.reset.ports ∧ s.arbiter = State.reset.arbiter ∧ s.memPort.table = [] ∧ s.reports = [] ∧
    s.faultUnit = State.reset.faultUnit ∧ s.supervisor.command = .idle ∧
    s.supervisor.result = { status := .empty, data := [] } ∧ s.supervisor.snapshot = none

/-- The port reset of `p` has begun (R152, R144, R148), `close` for a cause that forms NOTICE CLOSE: the port, the flight
table and the issue slot as the rule says, every other port and block as before. Reports and the supervisor port are named
by the statement. -/
def PortResetDone (s t : State) (p : PortId) (close : Bool) : Prop :=
  (∃ kept : PortRecord, kept = { s.port p with
      link := .resetting, claimDue := true, queue := [], headClass := none, stale := (s.port p).handed.isSome,
      outstanding := 0,
      sendList := (s.port p).sendList.filter Frame.isNotice, badCount := 0, receiveCount := 0 } ∧
    t.port p = if close then kept.sendNotice .close else kept) ∧
  (∀ q, q ≠ p → t.port q = s.port q) ∧
  t.memPort = { s.memPort with
    table := s.memPort.table.map (fun e => if e.port = p then { e with tag := none } else e) } ∧
  t.arbiter = { s.arbiter with slot := if s.arbiter.slot = .chosen p then .free else s.arbiter.slot } ∧
  t.resetLow = s.resetLow ∧ t.lockUnit = s.lockUnit ∧ t.clock = s.clock ∧ t.windows = s.windows ∧
  t.faultUnit = s.faultUnit ∧ t.draws = s.draws ∧ t.pending = s.pending

/-! ### The checks of an acquisition (R16) -/

/-- Check 4: an ACQUIRE meets any pending wait of its port, a TRY a wait on the same lock. -/
def LockUnit.waitStands (u : LockUnit) (p : PortId) (l : LockId) (tryOnly : Bool) : Prop :=
  if tryOnly then u.wait p = some l else u.wait p ≠ none

/-- Check 6: the lock's level is not greater than the highest level among the locks of the port's entries (R58). -/
def LockUnit.outOfOrder (u : LockUnit) (p : PortId) (l : LockId) : Prop :=
  ∃ e ∈ u.held p, (u.lock l).level ≤ (u.lock e.lock).level

/-- Checks 2 to 6 all pass. -/
def LockUnit.passes (u : LockUnit) (p : PortId) (l : LockId) (tryOnly : Bool) : Prop :=
  (u.lock l).state ≠ .broken ∧ u.entry p l = none ∧ ¬u.waitStands p l tryOnly ∧ u.places p < 8 ∧
    (tryOnly = false → ¬u.outOfOrder p l)

/-- The lock named by a slot's number, when that lock is defined. -/
def LockUnit.names (u : LockUnit) (number : Nat) (l : LockId) : Prop := l.val = number ∧ (u.lock l).state ≠ .undefined

/-- The entry of `p` for `l` is gone from its hold list, the others closed up (R60). -/
def LockUnit.without (u : LockUnit) (p : PortId) (l : LockId) : LockUnit :=
  u.setHeld p ((u.held p).filter (fun e => e.lock != l))

/-- The record of `p` is out of the queue of `l`, and its pending wait cleared (R31, steps 1 and 2). -/
def LockUnit.unqueued (u : LockUnit) (l : LockId) (p : PortId) : LockUnit :=
  (u.setLock l { u.lock l with waiters := (u.lock l).waiters.filter (fun w => w.port != p) }).setWait p none

/-- The record of `p` heads the queue of SHARED lock `l` (R36). -/
def LockUnit.headsShared (u : LockUnit) (l : LockId) (p : PortId) : Prop :=
  (u.lock l).state = .shared ∧ ∃ w ws, (u.lock l).waiters = w :: ws ∧ w.port = p

/-! ### The issue arbiter -/

/-- R139: the port has a memory-bound head, and the flight table has room. -/
def State.isEligible (s : State) (c : PortClass) (p : PortId) : Prop :=
  (s.port p).cls = c ∧ (∃ h, (s.port p).headClass = some h ∧ h.memoryBound = true) ∧ s.memPort.table.length < 16

/-- `b` is the first port with property `P` in the order `start`, `start + 1`, …, P0 following P5 (R141). -/
def FirstFrom (start : PortId) (P : PortId → Prop) (b : PortId) : Prop :=
  ∃ k : Fin 6, b = start + k ∧ P b ∧ ∀ j : Fin 6, j < k → ¬P (start + j)

/-! ### Laws of the manual -/

/-- R138 and R129: the flight table holds at most 16 entries and has room while a head is chosen; each port's counts are
the entries that name it. Table 8-2: the arbiter's count and weight stay in range. -/
def State.FlightLaw (s : State) : Prop :=
  s.memPort.table.length ≤ 16 ∧ (∀ p, s.arbiter.slot = .chosen p → s.memPort.table.length < 16) ∧
    (∀ p, (s.port p).flight = s.memPort.table.countP (fun e => e.port == p)) ∧
    (∀ p, (s.port p).writeFlight = s.memPort.table.countP (fun e => e.port == p && e.kind == .write)) ∧
    s.arbiter.foreGrants ≤ 8 ∧ 1 ≤ s.arbiter.weight ∧ s.arbiter.weight ≤ 8

/-- R86: a window's range is not empty and lies in the address space. -/
def WindowDef.inSpace (d : WindowDef) : Prop := 1 ≤ d.pages ∧ d.base + d.pages ≤ 1048576

/-- R92, R88 and R86: ranges of ENABLED windows never overlap, an ENABLED GUARD window names a defined lock, and every
range lies in the address space. -/
def State.WindowLaw (s : State) : Prop :=
  (∀ v w a b, v ≠ w → s.window v = .enabled a → s.window w = .enabled b →
    a.base + a.pages ≤ b.base ∨ b.base + b.pages ≤ a.base) ∧
  (∀ w d l wp rp, s.window w = .enabled d → d.kind = .guard l wp rp → (s.lockUnit.lock l).state ≠ .undefined) ∧
  (∀ w d, s.window w = .defined d ∨ s.window w = .enabled d → d.inSpace)

/-- R165 and R171: the log holds at most 16 records, and ALERT# is asserted exactly when some class is both pending and
enabled. -/
def State.FaultLaw (s : State) : Prop :=
  s.faultUnit.log.length ≤ 16 ∧
    (s.faultUnit.alert = true ↔ ∃ k : Fin 12, s.faultUnit.pendingClasses[k] = true ∧ s.faultUnit.enabledClasses[k] = true)

/-- R133, R122, R119, R127, R128, R152: at most 8 NOTICEs wait, the consecutive-bad count stays below 8, a disabled port
is not ONLINE, only an ONLINE port has requests, a claim is due only in RESETTING, and a head waits only while the port has
no operation at the lock unit. -/
def PortRecord.Law (r : PortRecord) : Prop :=
  r.sendList.countP Frame.isNotice ≤ 8 ∧ r.badCount < 8 ∧ (r.enabled = false → r.link ≠ .online) ∧
    (r.link ≠ .online → r.queue = []) ∧ (r.claimDue = true → r.link = .resetting) ∧
    (r.headClass ≠ none → r.queue ≠ [] ∧ r.handed = none)

/-- The tag of a RESPONSE. -/
def Frame.responseTag (f : Frame) : Option Tag :=
  match f with
  | .response t _ _ => some t
  | .notice _ => none

/-- The tag of the waiter record of port `p`, if it waits (R29). -/
def LockUnit.waitTags (u : LockUnit) (p : PortId) : List Tag :=
  ((u.wait p).bind (fun l => u.waiterOf l p)).toList.map Waiter.tag

/-- The tags of the attached reads of port `p` in flight (R126, R146). -/
def State.flightTags (s : State) (p : PortId) : List Tag :=
  (s.memPort.table.filter (fun e => e.port == p && e.kind == .read)).filterMap FlightEntry.tag

/-- The tag of the operation of a port that waits at the lock unit, unless its session has ended. -/
def PortRecord.handedTags (r : PortRecord) : List Tag := if r.stale then [] else r.handed.toList.map LockOp.tag

/-- Where the outstanding tags of a port stand (R126): in its queue, at the lock unit, in the waiter record of its session, in
flight with an attached read, and in its unsent RESPONSEs. -/
def PortRecord.tagPlaces (r : PortRecord) (waits flights : List Tag) : List Tag :=
  r.queue.map Request.tag ++ r.handedTags ++ (if r.link = .online then waits else []) ++ flights ++
    r.sendList.filterMap Frame.responseTag

/-- The same of port `p` now. -/
def State.tagPlaces (s : State) (p : PortId) : List Tag :=
  (s.port p).tagPlaces (s.lockUnit.waitTags p) (s.flightTags p)

/-- R126: the outstanding tags of a port are exactly those of its unanswered requests, each in one place; every queued request
and every unsent RESPONSE has its tag outstanding, and at most 16 RESPONSEs wait. A head held at the release fence keeps its
own tag (R97). -/
def State.TagLaw (s : State) (p : PortId) : Prop :=
  let r := s.port p
  (s.tagPlaces p).Nodup ∧ (∀ t : Tag, r.outstanding.getLsbD t.val = true ↔ t ∈ s.tagPlaces p) ∧
    (∀ q ∈ r.queue, r.outstanding.getLsbD q.tag.val = true) ∧
    (∀ f ∈ r.sendList, ∀ t, f.responseTag = some t → r.outstanding.getLsbD t.val = true) ∧
    r.sendList.countP (fun f => !f.isNotice) ≤ 16 ∧
    (∀ op, r.headClass = some (.heldRelease op) → r.queue.head?.map Request.tag = some op.tag)

/-- R120, R148, R152, R153: outside ONLINE nothing is outstanding, every flight-table entry of the port is detached, and an
operation still at the lock unit belongs to an ended session. At OFFLINE both flight counts are 0. Once the claim of an ended
session has been taken, the port has no entry and no pending wait until it hands on an operation of a new session. -/
def State.SessionLaw (s : State) (p : PortId) : Prop :=
  let r := s.port p
  (r.link ≠ .online → r.outstanding = 0 ∧ (∀ e ∈ s.memPort.table, e.port = p → e.tag = none) ∧
    (r.handed ≠ none → r.stale = true)) ∧
  (r.link = .offline → r.flight = 0 ∧ r.writeFlight = 0) ∧
  (r.stale = true → r.handed ≠ none) ∧
  (r.claimDue = false → r.link ≠ .online ∨ r.stale = true →
    s.lockUnit.held p = [] ∧ s.lockUnit.wait p = none ∧ ∀ op, r.handed = some op → op.kind.claimMayPass = true)

/-- The law of every port. -/
def State.PortLaw (s : State) : Prop := ∀ p, (s.port p).Law ∧ s.SessionLaw p ∧ s.TagLaw p

/-- R2, R28, R68, R108: holder set, queue, lease and guard-flight count agree with the lock state. -/
def LockRecord.Law (r : LockRecord) : Prop :=
  (match r.state with
    | .undefined => r.holders = [] ∧ r.waiters = [] ∧ r.params = none ∧ r.guardFlight = 0
    | .free => r.holders = [] ∧ r.waiters = [] ∧ r.guardFlight = 0
    | .exclusive => ∃ p, r.holders = [{ port := p, mode := .exclusive }]
    | .shared => r.holders ≠ [] ∧ (∀ h ∈ r.holders, h.mode = .shared) ∧ r.guardFlight = 0 ∧
        (∀ w, r.waiters.head? = some w → w.mode = .exclusive)
    | .draining => r.holders = [] ∧ r.guardFlight ≠ 0
    | .broken => r.holders = [] ∧ r.waiters = []) ∧
  (r.state ≠ .undefined → r.params ≠ none) ∧ (r.holders.map Holder.port).Nodup ∧ (r.waiters.map Waiter.port).Nodup ∧
  (r.leaseRunning = true → r.holders ≠ []) ∧ (r.leaseRunning = false → r.leaseRemaining = 0)

/-- The lock unit agrees with itself: each record's law; a live entry for each holder and for no other port (R51); no two
entries of a port for one lock, and none for an undefined lock (R49, R51); the pending wait of a port is its one waiter
record, and a waiting port has no entry for that lock (R29); no more than eight places in use (R53). -/
def LockUnit.Law (u : LockUnit) : Prop :=
  (∀ l, (u.lock l).Law) ∧
  (∀ p l m, (∃ e ∈ u.held p, e.lock = l ∧ e.revoked = false ∧ e.mode = m) ↔
    ({ port := p, mode := m } : Holder) ∈ (u.lock l).holders) ∧
  (∀ p, ((u.held p).map HoldEntry.lock).Nodup) ∧
  (∀ p, ∀ e ∈ u.held p, (u.lock e.lock).state ≠ .undefined) ∧
  (∀ p l, u.wait p = some l ↔ ∃ w ∈ (u.lock l).waiters, w.port = p) ∧
  (∀ p l, u.wait p = some l → ∀ e ∈ u.held p, e.lock ≠ l) ∧
  (∀ p, u.places p ≤ 8)

/-- R108, R109, R138: each lock's guard-flight count is the number of flight-table entries that record the lock; only
writes record one (Table 8-1), and only a write is GUARD-AUTHORIZED (R97). -/
def State.GuardLaw (s : State) : Prop :=
  (∀ l, (s.lockUnit.lock l).guardFlight = s.memPort.table.countP (fun e => e.guard == some l)) ∧
    (∀ e ∈ s.memPort.table, e.guard ≠ none → e.kind = .write) ∧
    (∀ p l w k, (s.port p).headClass = some (.guardAuthorized l w k) →
      ∃ q, (s.port p).queue.head? = some q ∧ q.kind = .write)

end Sys2Proof.Machine
end

