-- ==== Sys2Proof/WellFormed.lean ====
section
/-! DEFINITION. Which commands are well formed: those whose operands fit what their row says of them. -/

namespace Sys2Proof

/-- A REQUEST is a good frame (R118); a BAD_COMMAND_FRAME carries bytes whose form R174 refuses, and at least one byte
("A write transaction that carries no byte after the address is not a command"). Every other operand is of a type that
holds only what its row allows. -/
def Instr.wf (c : Instr) : Bool :=
  match c with
  | .powerOn _ _ => true
  | .resetAssert _ => true
  | .resetRelease _ => true
  | .openFrame _ => true
  | .closeFrame _ => true
  | .request _ kind _ size _ data => requestLengthGood kind size data
  | .badFrame _ => true
  | .linkSilence _ => true
  | .frameSent _ => true
  | .acquireExclusive _ => true
  | .acquireShared _ => true
  | .tryExclusive _ => true
  | .tryShared _ => true
  | .inspect _ => true
  | .release _ => true
  | .releaseLatest _ => true
  | .withdraw _ => true
  | .misuseAccess _ => true
  | .lockClockTick => true
  | .tickClaim _ => true
  | .leaseExpiry _ => true
  | .waitTimeout _ _ => true
  | .issueDecision => true
  | .issue => true
  | .incrementClaim => true
  | .issueSlotFreed => true
  | .memCompletion _ _ _ => true
  | .portGoneClaim _ => true
  | .faultReport _ => true
  | .badCommandFrame bytes => !bytes.isEmpty && !commandFormGood bytes
  | .commandWriteNak => true
  | .setClock _ => true
  | .setPort _ _ _ _ => true
  | .setWeight _ => true
  | .defineWindow _ _ _ _ _ _ _ => true
  | .enableWindow _ => true
  | .disableWindow _ => true
  | .readWindow _ => true
  | .defineLock _ _ _ _ _ => true
  | .undefineLock _ => true
  | .forceRelease _ => true
  | .repairLock _ => true
  | .resetPort _ => true
  | .snapshotLock _ => true
  | .snapshotPort _ => true
  | .readSnapshot => true
  | .readFault => true
  | .readAlert => true
  | .setAlertMask _ => true
  | .clearAlert _ => true
  | .readStatus => true

end Sys2Proof
end

