-- ==== Sys2Proof/Certificates/Slice0/Obligations.lean ====
section
/-! DEFINITION. The statements for the provers. `exec c s = .next t` says that command `c` is taken in state `s`; a
statement that gives `t` as `s` with named fields replaced states the frame too: every other field is unchanged. -/

section
open Sys2Proof Sys2Proof.Machine

/-! ### The queue of commands and RESET# -/

/-- The step takes the command at the front of the queue, and idles on an empty queue (log entry 1, the model's choice). -/
def Obligations.StepTakesFrontCommand : Prop :=
  (∀ (c : Instr) (rest : List Instr) (s : State),
    step { s with pending := c :: rest } = exec c { s with pending := rest }) ∧
  (∀ s : State, s.pending = [] → step s = .next s)

/-- No command stops the part, and none touches the queue of commands. Both clauses rest on the model's choices: a command
that is not due changes nothing (log entry 2), the queue stands for all agents (log entry 1), and it outlives POWER_ON and the
edges of RESET# (log entry 20). -/
def Obligations.EveryCommandIsTaken : Prop :=
  ∀ (c : Instr) (s : State), ∃ t, exec c s = .next t ∧ t.pending = s.pending

/-- The state right after RESET# (Table 9-2). -/
def Obligations.ResetStateIsTable92 : Prop :=
  State.reset.resetLow = false ∧
  (∀ l, State.reset.lockUnit.lock l = {
    state := .undefined, params := none, holders := [], waiters := [], generation := 0, taint := false,
    leaseRemaining := 0, leaseRunning := false, leaseReported := false, guardFlight := 0 }) ∧
  (∀ p, State.reset.lockUnit.held p = [] ∧ State.reset.lockUnit.wait p = none) ∧
  State.reset.clock.period = 100 ∧ State.reset.clock.counter = 0 ∧
  (∀ w, State.reset.window w = .undefined) ∧
  (∀ p, (State.reset.port p).link = .offline ∧ (State.reset.port p).enabled = true ∧ (State.reset.port p).cls = .fore ∧
    (State.reset.port p).waitLimit = 0 ∧ (State.reset.port p).queue = [] ∧ (State.reset.port p).outstanding = 0 ∧
    (State.reset.port p).flight = 0 ∧ (State.reset.port p).writeFlight = 0 ∧ (State.reset.port p).badCount = 0 ∧
    (State.reset.port p).receiveCount = 0 ∧ (State.reset.port p).sendList = []) ∧
  State.reset.arbiter = { fore := 0, back := 0, foreGrants := 0, weight := 4, slot := .free } ∧
  State.reset.memPort.table = [] ∧ State.reset.reports = [] ∧
  State.reset.faultUnit = { log := [], pendingClasses := 0, enabledClasses := 0, alert := false } ∧
  State.reset.supervisor.command = .idle ∧ State.reset.supervisor.result = { status := .empty, data := [] } ∧
  State.reset.supervisor.snapshot = none

/-- POWER_ON, RESET_ASSERT and RESET_RELEASE leave every block at its power-on values; the straps sampled last give the
I2C address; the memory port opens a session (its numbering is the model's, log entry 12). -/
def Obligations.ResetCommandsRestorePowerOn : Prop :=
  ∀ (straps : BitVec 3) (s : State),
    (∀ high : Bool, ∃ t, exec (.powerOn high straps) s = .next t ∧ t.holdsPowerOnValues ∧ t.resetLow = !high ∧
      t.i2cAddress = 0x58#7 + straps.setWidth 7 ∧ t.memPort.session = s.memPort.session + 1) ∧
    (∃ t, exec (.resetAssert straps) s = .next t ∧ t.holdsPowerOnValues ∧ t.resetLow = true) ∧
    (s.resetLow = true → ∃ t, exec (.resetRelease straps) s = .next t ∧ t.holdsPowerOnValues ∧ t.resetLow = false ∧
      t.i2cAddress = 0x58#7 + straps.setWidth 7 ∧ t.memPort.session = s.memPort.session + 1)

/-- While RESET# is low nothing but POWER_ON and the edges of RESET# changes the part; the supervisor's writes are not
acknowledged (the bit that shows it is the model's, log entry 16). -/
def Obligations.ResetLowIgnoresEverything : Prop :=
  ∀ (c : Instr) (s : State), s.resetLow = true → isResetCommand c = false →
    exec c s = .next (if isSupervisorWrite c then s.acknowledge false else s)

/-! ### Agent links -/

/-- OPEN against the link state (R120, Table 7-3). That an OPEN at an ONLINE port also clears the consecutive-bad count is
the model's reading of R122 against R120 (log entry 6). -/
def Obligations.OpenByLinkState : Prop :=
  ∀ (p : PortId) (s : State), s.resetLow = false →
    ((s.port p).link = .offline → (s.port p).enabled = true →
      exec (.openFrame p) s = .next (s.setPort p
        { (s.port p).sendNotice .openAck with link := .online, badCount := 0, receiveCount := 0 })) ∧
    ((s.port p).link = .offline → (s.port p).enabled = false →
      exec (.openFrame p) s = .next (s.setPort p ((s.port p).sendNotice .openNak))) ∧
    ((s.port p).link = .online →
      exec (.openFrame p) s = .next (s.setPort p
        { (s.port p).sendNotice .openAck with badCount := 0, receiveCount := 0 })) ∧
    ((s.port p).link = .resetting → exec (.openFrame p) s = .next s)

/-- CLOSE against the link state (R121) and 64 µs of silence (R123): at an ONLINE port both start a port reset (R152), CLOSE
with NOTICE CLOSE, silence with a LINK record and without it; elsewhere CLOSE is answered or dropped and silence is nothing. -/
def Obligations.CloseAndSilence : Prop :=
  (∀ (p : PortId) (s : State), s.resetLow = false →
     ((s.port p).link = .offline →
       exec (.closeFrame p) s = .next (s.setPort p ((s.port p).sendNotice .close))) ∧
     ((s.port p).link = .online → ∃ t, exec (.closeFrame p) s = .next t ∧ PortResetDone s t p true ∧
       t.reports = s.reports ∧ t.supervisor = s.supervisor) ∧
     ((s.port p).link = .resetting → exec (.closeFrame p) s = .next s)) ∧
  (∀ (p : PortId) (s : State), s.resetLow = false →
     ((s.port p).link = .online → ∃ t, exec (.linkSilence p) s = .next t ∧ PortResetDone s t p false ∧
       t.reports = s.reports ++ [⟨.port p, [{ cls := .link, port := some p }]⟩] ∧
       t.supervisor = s.supervisor) ∧
     ((s.port p).link ≠ .online → exec (.linkSilence p) s = .next s))

/-- A bad frame (R122): answered NOTICE RESEND, counted at an ONLINE port, and the eighth in a row loses the link. A
NOTICE is appended unless 8 stand unsent (R133). -/
def Obligations.BadFrameIsCounted : Prop :=
  (∀ (r : PortRecord) (n : Notice), r.sendNotice n =
    if r.sendList.countP Frame.isNotice < 8 then { r with sendList := r.sendList ++ [.notice n] } else r) ∧
  (∀ (p : PortId) (s : State), s.resetLow = false →
    let counted := s.setPort p (({ s.port p with
      receiveCount := (s.port p).receiveCount + 1, badCount := (s.port p).badCount + 1 } : PortRecord).sendNotice
        (.resend ((s.port p).receiveCount + 1)))
    ((s.port p).link = .offline →
      exec (.badFrame p) s = .next (s.setPort p ((s.port p).sendNotice (.resend 0)))) ∧
    ((s.port p).link = .resetting → exec (.badFrame p) s = .next s) ∧
    ((s.port p).link = .online → (s.port p).badCount + 1 < 8 → exec (.badFrame p) s = .next counted) ∧
    ((s.port p).link = .online → 8 ≤ (s.port p).badCount + 1 → ∃ t, exec (.badFrame p) s = .next t ∧
      PortResetDone counted t p false ∧ t.supervisor = s.supervisor ∧
      t.reports = s.reports ++ [⟨.port p, [{ cls := .link, port := some p }]⟩]))

/-- A REQUEST at an OFFLINE port (R125): NOTICE PROTOCOL with the tag and NOT_OPEN, and a LINK fault; nothing else. -/
def Obligations.RequestAtOfflinePort : Prop :=
  ∀ (p : PortId) (kind : BitVec 4) (tag : Tag) (size : Byte) (addr : Word) (data : List Byte) (s : State),
    s.resetLow = false → requestLengthGood kind size data = true → (s.port p).link = .offline →
      exec (.request p kind tag size addr data) s = .next
        { s.setPort p ((s.port p).sendNotice (.protocol tag .notOpen)) with
          reports := s.reports ++ [⟨.port p, [{ cls := .link, port := some p, tag := some tag, addr := some addr }]⟩] }

/-- R124's checks in their order at an ONLINE port: the first that applies gives the reason of NOTICE PROTOCOL, and a LINK
fault; the frame counts as received (R122) and nothing else changes. In RESETTING the frame is dropped (R119). A frame of
another length is a bad frame (R118). -/
def Obligations.RequestRefusedInOrder : Prop :=
  ∀ (p : PortId) (kind : BitVec 4) (tag : Tag) (size : Byte) (addr : Word) (data : List Byte) (s : State),
    s.resetLow = false →
    let c : Instr := .request p kind tag size addr data
    let received : PortRecord := { s.port p with receiveCount := (s.port p).receiveCount + 1, badCount := 0 }
    let refused (reason : ProtocolReason) : State :=
      { s.setPort p (received.sendNotice (.protocol tag reason)) with
        reports := s.reports ++ [⟨.port p, [{ cls := .link, port := some p, tag := some tag, addr := some addr }]⟩] }
    (requestLengthGood kind size data = false → exec c s = exec (.badFrame p) s) ∧
    (requestLengthGood kind size data = true → (s.port p).link = .resetting → exec c s = .next s) ∧
    (requestLengthGood kind size data = true → (s.port p).link = .online →
      (kind ≠ 1#4 ∧ kind ≠ 2#4 → exec c s = .next (refused .badKind)) ∧
      ((kind = 1#4 ∨ kind = 2#4) → 4 < size.toNat → exec c s = .next (refused .badSize)) ∧
      ((kind = 1#4 ∨ kind = 2#4) → ∀ n, sizeBytes size = some n →
        (addr.toNat % n ≠ 0 → exec c s = .next (refused .unaligned)) ∧
        (addr.toNat % n = 0 → (s.port p).outstanding.getLsbD tag.val = true →
          exec c s = .next (refused .tagInUse))))

/-- An accepted REQUEST (R124): its tag joins the outstanding set and it joins the queue's tail; behind a request or an
operation that still waits nothing more happens, and at an empty queue it is classified and handled as head (R127). -/
def Obligations.RequestAccepted : Prop :=
  ∀ (p : PortId) (k : ReqKind) (tag : Tag) (size : Byte) (n : Nat) (addr : Word) (data : List Byte) (s : State),
    s.resetLow = false → (s.port p).link = .online → sizeBytes size = some n → addr.toNat % n = 0 →
    (match k with | .read => data = [] | .write => data.length = n) →
    (s.port p).outstanding.getLsbD tag.val = false →
    let c : Instr := .request p (match k with | .read => 1#4 | .write => 2#4) tag size addr data
    let joined := s.setPort p { s.port p with
      receiveCount := (s.port p).receiveCount + 1, badCount := 0,
      outstanding := (s.port p).outstanding ||| BitVec.twoPow 16 tag.val,
      queue := (s.port p).queue ++ [{ tag := tag, kind := k, size := n, addr := addr, data := data }] }
    exec c s = .next (joined.advance p []) ∧
    ((s.port p).headClass ≠ none ∨ (s.port p).handed ≠ none → exec c s = .next joined)

/-- Head handling (R127, R128, R130, Table 7-4): a port whose head is classified, or whose operation is still to be taken, is
left alone; otherwise each head is classified in turn, leaves BLOCKED, goes to the lock unit, or waits. Its frames join the
send list in some order (R133; the order is a free value, log entry 5), its faults are one report (R163), and nothing else
changes. -/
def Obligations.HeadHandlingOfAPort : Prop :=
  (∀ (p : PortId) (s : State),
     let r := s.port p
     ((r.headClass ≠ none ∨ r.handed ≠ none) → s.headRun p =
       { queue := r.queue, headClass := r.headClass, handed := r.handed, frames := [], faults := [] }) ∧
     (r.headClass = none → r.handed = none →
       (r.queue = [] → s.headRun p = { queue := [], headClass := none, handed := none, frames := [], faults := [] }) ∧
       (∀ q qs, r.queue = q :: qs →
         let behind := (s.setPort p { r with queue := qs }).headRun p
         let waits (h : HeadClass) (fs : List FaultInfo) : HeadRun :=
           { queue := q :: qs, headClass := some h, handed := none, frames := [], faults := fs }
         let goes (op : LockOp) : HeadRun :=
           { queue := qs, headClass := none, handed := some op, frames := [], faults := [] }
         (s.classify p q = .plain → s.headRun p = waits .plain []) ∧
         (∀ l w k, s.classify p q = .guardAuthorized l w k → s.headRun p = waits (.guardAuthorized l w k) []) ∧
         (∀ f, s.classify p q = .guardPassed f → s.headRun p = waits .guardPassed [f]) ∧
         (∀ f, s.classify p q = .blocked f → s.headRun p =
           { behind with frames := .response q.tag .blocked [] :: behind.frames, faults := f :: behind.faults }) ∧
         (∀ op, s.classify p q = .misuse op → s.headRun p = goes op) ∧
         (∀ op, s.classify p q = .lockOp op → s.headRun p =
           if (op.kind = .release ∨ op.kind = .releaseLatest) ∧ r.writeFlight ≠ 0 then waits (.heldRelease op) []
           else goes op)))) ∧
  (∀ (p : PortId) (own : List Frame) (s : State),
     let run := s.headRun p
     ∃ fs n, List.Perm fs (own ++ run.frames) ∧ s.advance p own =
       { s.setPort p { s.port p with
           queue := run.queue, headClass := run.headClass, handed := run.handed,
           sendList := (s.port p).sendList ++ fs } with
         draws := n
         reports := s.reports ++ if run.faults = [] then [] else [{ source := .port p, faults := run.faults }] })

/-- Classification by the window map (Table 5-3, R12, R13, R97, R98): outside every ENABLED window, in a BLOCK window, and
in a LOCK window by size, direction and slot. R26 gives the MISUSE record of an access whose size is not 4; that its lock is the
one of the slot of the address is the model's reading (log entry 23, DEDUCED). -/
def Obligations.ClassificationByWindow : Prop :=
  (∀ (p : PortId) (q : Request) (s : State),
    (∀ w d, s.window w = .enabled d →
      q.addr.toNat < 4096 * d.base ∨ 4096 * (d.base + d.pages) ≤ q.addr.toNat) → s.classify p q = .plain) ∧
  (∀ (p : PortId) (q : Request) (s : State) (w : WindowId) (d : WindowDef), s.WindowLaw → s.window w = .enabled d →
    4096 * d.base ≤ q.addr.toNat → q.addr.toNat < 4096 * (d.base + d.pages) →
    let access (c : FaultClass) : FaultInfo :=
      { cls := c, port := some p, tag := some q.tag, window := some w, addr := some q.addr }
    (d.kind = .block → s.classify p q = .blocked (access .decode)) ∧
    (∀ first, d.kind = .lock first →
      let n := first.val + (q.addr.toNat - 4096 * d.base) / 32
      let op (k : LockOpKind) : LockOp := { kind := k, tag := q.tag, number := n, window := w, addr := q.addr }
      (q.size ≠ 4 → ∃ f, s.classify p q = .blocked f ∧ f.lock.map Fin.val = (if n ≤ 63 then some n else none) ∧
        { f with lock := none } = access .misuse) ∧
      (q.size = 4 → (slotOperation (q.addr.toNat % 32)).2 = q.kind →
        s.classify p q = .lockOp (op (slotOperation (q.addr.toNat % 32)).1)) ∧
      (q.size = 4 → (slotOperation (q.addr.toNat % 32)).2 ≠ q.kind → s.classify p q = .misuse (op .misuse)))) ∧
  slotOperation 0x00 = (.acquireExclusive, .read) ∧ slotOperation 0x04 = (.acquireShared, .read) ∧
  slotOperation 0x08 = (.tryExclusive, .read) ∧ slotOperation 0x0C = (.tryShared, .read) ∧
  slotOperation 0x10 = (.inspect, .read) ∧ slotOperation 0x14 = (.release, .write) ∧
  slotOperation 0x18 = (.releaseLatest, .write) ∧ slotOperation 0x1C = (.withdraw, .write)

/-- The guard check (Tables 6-1 and 6-2, R104 to R106) for a request whose page lies in an ENABLED GUARD window. -/
def Obligations.GuardCheckTables : Prop :=
  ∀ (p : PortId) (q : Request) (s : State) (w : WindowId) (d : WindowDef) (l : LockId) (wp : WritePolicy)
    (rp : ReadPolicy), s.WindowLaw → s.window w = .enabled d → d.kind = .guard l wp rp →
    4096 * d.base ≤ q.addr.toNat → q.addr.toNat < 4096 * (d.base + d.pages) →
    let fault (c : FaultClass) : FaultInfo :=
      { cls := c, port := some p, tag := some q.tag, lock := some l, window := some w,
        generation := some (s.lockUnit.lock l).generation, addr := some q.addr }
    let live := ∃ e, s.lockUnit.entry p l = some e ∧ e.revoked = false
    let liveExclusive := ∃ e, s.lockUnit.entry p l = some e ∧ e.revoked = false ∧ e.mode = .exclusive
    (q.kind = .write → liveExclusive → s.classify p q = .guardAuthorized l w wp) ∧
    (q.kind = .write → ¬liveExclusive → wp = .drop → s.classify p q = .blocked (fault .guardWrite)) ∧
    (q.kind = .write → ¬liveExclusive → wp = .pass → s.classify p q = .guardPassed (fault .guardWrite)) ∧
    (q.kind = .read → rp = .openAll ∨ live → s.classify p q = .plain) ∧
    (q.kind = .read → rp = .drop → ¬live → s.classify p q = .blocked (fault .guardRead)) ∧
    (q.kind = .read → rp = .pass → ¬live → s.classify p q = .guardPassed (fault .guardRead))

/-- The oldest frame of the send list is sent (R133): it leaves the list, and a RESPONSE's tag leaves the outstanding set
(R126). That the event changes nothing with an empty send list, when no frame can be sent, is the model's choice (log entry 2). -/
def Obligations.FrameSentLeavesList : Prop :=
  ∀ (p : PortId) (s : State), s.resetLow = false →
    ((s.port p).sendList = [] → exec (.frameSent p) s = .next s) ∧
    (∀ n fs, (s.port p).sendList = .notice n :: fs →
      exec (.frameSent p) s = .next (s.setPort p { s.port p with sendList := fs })) ∧
    (∀ tag result data fs, (s.port p).sendList = .response tag result data :: fs →
      exec (.frameSent p) s = .next (s.setPort p { s.port p with
        sendList := fs, outstanding := (s.port p).outstanding &&& ~~~(BitVec.twoPow 16 tag.val) }))

/-! ### Operations taken at the lock unit -/

/-- A slot whose number is above 63 or names an UNDEFINED lock (R15): no record changes, the word is UNDEFINED (all zero
for INSPECT), and one MISUSE fault is reported. A wrong-direction access (R13): no state changes, a MISUSE word and a
MISUSE fault, whatever the lock. -/
def Obligations.UndefinedAndMisusedSlots : Prop :=
  ∀ (p : PortId) (op : LockOp) (s : State), s.offers p op →
    let fault : FaultInfo :=
      { cls := .misuse, port := some p, tag := some op.tag, lock := slotLock op.number, window := some op.window,
        addr := some op.addr }
    let answer (w : Word) : LockEffect := { unit := s.lockUnit, answers := [⟨p, op.tag, w⟩], faults := [fault] }
    let number := if op.number ≤ 63 then op.number else 0
    ((∀ l : LockId, l.val = op.number → (s.lockUnit.lock l).state = .undefined) →
      (∀ m tryOnly, op.kind = seekKind m tryOnly → ∃ t, exec (seekCommand p m tryOnly) s = .next t ∧
        OpTaken s t p (answer (resultWord .undefined number m 0 false))) ∧
      (op.kind = .release → ∃ t, exec (.release p) s = .next t ∧
        OpTaken s t p (answer (resultWord .undefined number .exclusive 0 false))) ∧
      (op.kind = .withdraw → ∃ t, exec (.withdraw p) s = .next t ∧
        OpTaken s t p (answer (resultWord .undefined number .exclusive 0 false))) ∧
      (op.kind = .inspect → ∃ t, exec (.inspect p) s = .next t ∧ OpTaken s t p (answer 0))) ∧
    (op.kind = .misuse →
      (op.number > 63 → ∃ t, exec (.misuseAccess p) s = .next t ∧
        OpTaken s t p (answer (resultWord .misuse 0 .exclusive 0 false))) ∧
      (∀ l : LockId, l.val = op.number → (s.lockUnit.lock l).state = .undefined →
        ∃ t, exec (.misuseAccess p) s = .next t ∧
          OpTaken s t p (answer (resultWord .misuse l.val .exclusive 0 false))) ∧
      (∀ l : LockId, s.lockUnit.names op.number l → ∃ t, exec (.misuseAccess p) s = .next t ∧
        OpTaken s t p (answer
          (resultWord .misuse l.val .exclusive (s.lockUnit.lock l).generation (s.lockUnit.lock l).taint))))

/-- Checks 2 to 6 of R16 on a defined lock, the first that applies deciding (R57, R53, R58, R59): nothing changes at the
lock unit, the word carries the requested mode and the lock's generation and taint, and only ORDER reports a fault. -/
def Obligations.AcquisitionRefusedInOrder : Prop :=
  ∀ (p : PortId) (op : LockOp) (m : Mode) (tryOnly : Bool) (l : LockId) (s : State),
    s.offers p op → op.kind = seekKind m tryOnly → s.lockUnit.names op.number l →
    let u := s.lockUnit
    let refused (o : LockOutcome) (faults : List FaultInfo) : Prop :=
      ∃ t, exec (seekCommand p m tryOnly) s = .next t ∧ OpTaken s t p
        { unit := u, answers := [⟨p, op.tag, resultWord o l.val m (u.lock l).generation (u.lock l).taint⟩],
          faults := faults }
    ((u.lock l).state = .broken → refused .broken []) ∧
    ((u.lock l).state ≠ .broken →
      (u.entry p l ≠ none → refused .held []) ∧
      (u.entry p l = none →
        (u.waitStands p l tryOnly → refused .pending []) ∧
        (¬u.waitStands p l tryOnly →
          (8 ≤ u.places p → refused .full []) ∧
          (u.places p < 8 → tryOnly = false → u.outOfOrder p l →
            refused .order [{ cls := .order, port := some p, tag := some op.tag, lock := some l,
                              window := some op.window, generation := some (u.lock l).generation,
                              addr := some op.addr }]))))

/-- An acquisition that passes the checks and finds the lock FREE, or SHARED with an empty queue for a shared request, is
granted (R17, R18, R35): holder set, state, generation, hold entry, lease and word as R18 says, and no fault. -/
def Obligations.AcquisitionGrantedAtOnce : Prop :=
  ∀ (p : PortId) (op : LockOp) (m : Mode) (tryOnly : Bool) (l : LockId) (s : State),
    s.offers p op → op.kind = seekKind m tryOnly → s.lockUnit.names op.number l → s.lockUnit.passes p l tryOnly →
    let u := s.lockUnit
    let r := u.lock l
    r.state = .free ∨ (r.state = .shared ∧ r.waiters = [] ∧ m = .shared) →
    let granted : LockRecord := { r with
      state := match m with | .exclusive => .exclusive | .shared => .shared
      holders := r.holders ++ [⟨p, m⟩]
      generation := r.generation + 1
      leaseRemaining := if r.holders = [] then r.lease else r.leaseRemaining
      leaseRunning := if r.holders = [] then r.lease != 0 else r.leaseRunning
      leaseReported := if r.holders = [] then false else r.leaseReported }
    ∃ t, exec (seekCommand p m tryOnly) s = .next t ∧ OpTaken s t p {
      unit := (u.setLock l granted).setHeld p (u.held p ++ [⟨l, m, r.generation + 1, false, false⟩]),
      answers := [⟨p, op.tag, resultWord .granted l.val m (r.generation + 1) r.taint⟩] }

/-- An acquisition that passes the checks and cannot be granted at once (R17): an ACQUIRE joins the tail of the queue with
the port's wait limit, becomes its pending wait and is not answered (R27, R30); a TRY is answered BUSY and changes
nothing. -/
def Obligations.AcquisitionThatMustWait : Prop :=
  ∀ (p : PortId) (op : LockOp) (m : Mode) (tryOnly : Bool) (l : LockId) (s : State),
    s.offers p op → op.kind = seekKind m tryOnly → s.lockUnit.names op.number l → s.lockUnit.passes p l tryOnly →
    let u := s.lockUnit
    let r := u.lock l
    r.state ≠ .free → ¬(r.state = .shared ∧ r.waiters = [] ∧ m = .shared) →
    (tryOnly = true → ∃ t, exec (seekCommand p m tryOnly) s = .next t ∧ OpTaken s t p
      { unit := u, answers := [⟨p, op.tag, resultWord .busy l.val m r.generation r.taint⟩] }) ∧
    (tryOnly = false → ∃ t, exec (seekCommand p m tryOnly) s = .next t ∧ OpTaken s t p
      { unit := (u.setLock l { r with
          waiters := r.waiters ++ [⟨p, op.tag, m, (s.port p).waitLimit, false⟩] }).setWait p (some l), answers := [] })

/-- INSPECT of a defined lock (R19): the inspect word of the record and of the port's own relation to it; no state
changes and no fault is reported. -/
def Obligations.InspectReportsTheRecord : Prop :=
  ∀ (p : PortId) (op : LockOp) (l : LockId) (s : State),
    s.offers p op → op.kind = .inspect → s.lockUnit.names op.number l →
    let relation := match s.lockUnit.entry p l with
      | none => 0
      | some e => if e.revoked then 3 else match e.mode with | .shared => 1 | .exclusive => 2
    ∃ t, exec (.inspect p) s = .next t ∧ OpTaken s t p
      { unit := s.lockUnit, answers := [⟨p, op.tag, inspectWord (s.lockUnit.lock l) relation⟩] }

/-- RELEASE of a defined lock without a live entry for it (R20): NOT_HOLDER and no change with no entry; a revoked entry is
removed and answered REVOKED, and the lock's record is untouched. -/
def Obligations.ReleaseWithoutLiveEntry : Prop :=
  ∀ (p : PortId) (op : LockOp) (l : LockId) (s : State),
    s.offers p op → op.kind = .release → s.lockUnit.names op.number l →
    let u := s.lockUnit
    let r := u.lock l
    (u.entry p l = none → ∃ t, exec (.release p) s = .next t ∧ OpTaken s t p
      { unit := u, answers := [⟨p, op.tag, resultWord .notHolder l.val .exclusive r.generation r.taint⟩] }) ∧
    (∀ e, u.entry p l = some e → e.revoked = true → ∃ t, exec (.release p) s = .next t ∧ OpTaken s t p
      { unit := u.without p l, answers := [⟨p, op.tag, resultWord .revoked l.val e.mode r.generation r.taint⟩] })

/-- RELEASE of a live SHARED entry (R21): the port leaves the holder set and the entry goes; with holders left the lock
stays as it is; the last one out stops the lease, and the lock becomes FREE or its head is granted. The word is formed
before any grant. The guard-flight count of a SHARED lock is 0 (R9). -/
def Obligations.ReleaseOfSharedHold : Prop :=
  ∀ (p : PortId) (op : LockOp) (l : LockId) (e : HoldEntry) (s : State),
    s.offers p op → op.kind = .release → s.lockUnit.names op.number l →
    s.lockUnit.entry p l = some e → e.revoked = false → e.mode = .shared → (s.lockUnit.lock l).guardFlight = 0 →
    let u := s.lockUnit.without p l
    let r := u.lock l
    let staying := r.holders.filter (fun h => h.port != p)
    let last : LockRecord := { r with holders := [], leaseRemaining := 0, leaseRunning := false }
    let word : Answer := ⟨p, op.tag, resultWord .released l.val .shared r.generation r.taint⟩
    (staying ≠ [] → ∃ t, exec (.release p) s = .next t ∧ OpTaken s t p
      { unit := u.setLock l { r with holders := staying }, answers := [word] }) ∧
    (staying = [] → r.waiters = [] → ∃ t, exec (.release p) s = .next t ∧ OpTaken s t p
      { unit := u.setLock l { last with state := .free }, answers := [word] }) ∧
    (staying = [] → r.waiters ≠ [] → ∃ t, exec (.release p) s = .next t ∧ OpTaken s t p
      { unit := ((u.setLock l last).grantHead l).1, answers := word :: ((u.setLock l last).grantHead l).2 })

/-- RELEASE of a live EXCLUSIVE entry (R22): the entry goes, the holder set empties and the lease stops; taint is cleared
with RELEASED, or kept with RELEASED_LOSS when the loss mark is set; then the lock becomes FREE or its head is granted. The
guard-flight count is 0 when the release is taken (R22). -/
def Obligations.ReleaseOfExclusiveHold : Prop :=
  ∀ (p : PortId) (op : LockOp) (l : LockId) (e : HoldEntry) (s : State),
    s.offers p op → op.kind = .release → s.lockUnit.names op.number l →
    s.lockUnit.entry p l = some e → e.revoked = false → e.mode = .exclusive → (s.lockUnit.lock l).guardFlight = 0 →
    let u := s.lockUnit.without p l
    let r := u.lock l
    let emptied : LockRecord :=
      { r with holders := [], leaseRemaining := 0, leaseRunning := false, taint := if e.loss then r.taint else false }
    let word : Answer := ⟨p, op.tag,
      resultWord (if e.loss then .releasedLoss else .released) l.val .exclusive r.generation emptied.taint⟩
    (r.waiters = [] → ∃ t, exec (.release p) s = .next t ∧ OpTaken s t p
      { unit := u.setLock l { emptied with state := .free }, answers := [word] }) ∧
    (r.waiters ≠ [] → ∃ t, exec (.release p) s = .next t ∧ OpTaken s t p
      { unit := ((u.setLock l emptied).grantHead l).1, answers := word :: ((u.setLock l emptied).grantHead l).2 })

/-- RELEASE-LATEST (R23, R61): with an empty hold list NOT_HOLDER and an otherwise zero word, without a fault; else it does
what a RELEASE naming the newest entry's lock does, whatever lock its slot names. -/
def Obligations.ReleaseLatestTakesNewest : Prop :=
  ∀ (p : PortId) (op : LockOp) (s : State), s.offers p op → op.kind = .releaseLatest →
    (s.lockUnit.held p = [] → ∃ t, exec (.releaseLatest p) s = .next t ∧ OpTaken s t p
      { unit := s.lockUnit, answers := [⟨p, op.tag, resultWord .notHolder 0 .exclusive 0 false⟩] }) ∧
    (∀ es e, s.lockUnit.held p = es ++ [e] → s.lockUnit.entry p e.lock = some e →
      (s.lockUnit.lock e.lock).state ≠ .undefined → ∃ t, exec (.releaseLatest p) s = .next t ∧
      exec (.release p) (s.setPort p { s.port p with
        handed := some { op with kind := .release, number := e.lock.val } }) = .next t)

/-- WITHDRAW on a defined lock (R24, R40, R36): the port's waiter record leaves, both requests are answered WITHDRAWN with
the same word, and only the removal of a SHARED lock's head grants the run behind it; without a wait there the word is NONE
and nothing changes. -/
def Obligations.WithdrawCancelsTheWait : Prop :=
  ∀ (p : PortId) (op : LockOp) (l : LockId) (s : State),
    s.offers p op → op.kind = .withdraw → s.lockUnit.names op.number l →
    let u := s.lockUnit
    let r := u.lock l
    (u.wait p ≠ some l → ∃ t, exec (.withdraw p) s = .next t ∧ OpTaken s t p
      { unit := u, answers := [⟨p, op.tag, resultWord .none l.val .exclusive r.generation r.taint⟩] }) ∧
    (u.wait p = some l → ∀ w, u.waiterOf l p = some w →
      let word := resultWord .withdrawn l.val w.mode r.generation r.taint
      (¬u.headsShared l p → ∃ t, exec (.withdraw p) s = .next t ∧ OpTaken s t p
        { unit := u.unqueued l p, answers := [⟨p, w.tag, word⟩, ⟨p, op.tag, word⟩] }) ∧
      (u.headsShared l p → ∃ t, exec (.withdraw p) s = .next t ∧ OpTaken s t p
        { unit := ((u.unqueued l p).grantRun l).1,
          answers := ⟨p, w.tag, word⟩ :: ⟨p, op.tag, word⟩ :: ((u.unqueued l p).grantRun l).2 }))

/-- The frame of the nine operations taken at the lock unit: each has the effect of its kind (`State.slotEffect`) and no other,
as `OpTaken` says. In the lock unit only the lock it reaches changes (the one its slot names, for RELEASE-LATEST the newest
entry's). Of its own port only entries for that lock come or go, and its wait stands unless it waited there or the operation is
an ACQUIRE that joins that queue. A port that does not wait at that lock keeps its hold list and its wait; one that does may gain
entries at the newest end, and lose its wait. -/
def Obligations.SlotOperationFrame : Prop :=
  ∀ (c : Instr) (p : PortId) (k : LockOpKind) (op : LockOp) (s : State),
    slotCommand c = some (p, k) → s.offers p op → op.kind = k →
    let u := s.lockUnit
    let waitsThere (q : PortId) : Prop := ∃ l, u.reaches p k op l ∧ ∃ w ∈ (u.lock l).waiters, w.port = q
    ∃ t, exec c s = .next t ∧ OpTaken s t p (s.slotEffect p k op) ∧
      (∀ l, ¬u.reaches p k op l → t.lockUnit.lock l = u.lock l ∧
        (t.lockUnit.held p).filter (fun e => e.lock == l) = (u.held p).filter (fun e => e.lock == l)) ∧
      (¬waitsThere p → t.lockUnit.wait p = u.wait p ∨
        (k = .acquireExclusive ∨ k = .acquireShared) ∧ ∃ l, u.reaches p k op l ∧ t.lockUnit.wait p = some l) ∧
      (∀ q, q ≠ p → ¬waitsThere q → t.lockUnit.held q = u.held q ∧ t.lockUnit.wait q = u.wait q) ∧
      (∀ q, q ≠ p → (∃ es, t.lockUnit.held q = u.held q ++ es ∧ ∀ e ∈ es, u.reaches p k op e.lock) ∧
        (t.lockUnit.wait q = u.wait q ∨ t.lockUnit.wait q = none))

/-- The grantable moment (R32 to R34, R10): with guarded writes in flight the emptied lock is DRAINING and grants nothing; with
an empty queue it is FREE; an EXCLUSIVE head is granted alone, with every effect of R18; a SHARED head with its run. The
leading shared run (R34, R36): every SHARED record at the front of the queue, up to the first EXCLUSIVE one, is granted in
queue order, each with its own generation; a run that joins holders leaves the lease as it stands. -/
def Obligations.GrantsFromTheQueue : Prop :=
  (∀ (u : LockUnit) (l : LockId), (u.lock l).holders = [] →
     let r := u.lock l
     (r.guardFlight ≠ 0 → u.settle l = (u.setLock l { r with state := .draining }, [])) ∧
     (r.guardFlight = 0 → r.waiters = [] → u.settle l = (u.setLock l { r with state := .free }, [])) ∧
     (∀ w ws, r.guardFlight = 0 → r.waiters = w :: ws → w.mode = .exclusive →
       u.settle l =
         (((u.setLock l { r with
             waiters := ws, state := .exclusive, holders := [⟨w.port, .exclusive⟩], generation := r.generation + 1,
             leaseRemaining := r.lease, leaseRunning := r.lease != 0, leaseReported := false }).setWait w.port none).setHeld
             w.port (u.held w.port ++ [⟨l, .exclusive, r.generation + 1, false, false⟩]),
           [⟨w.port, w.tag, resultWord .granted l.val .exclusive (r.generation + 1) r.taint⟩])) ∧
     (∀ w ws, r.guardFlight = 0 → r.waiters = w :: ws → w.mode = .shared → u.settle l = u.grantRun l)) ∧
  (∀ (u : LockUnit) (l : LockId),
     let r := u.lock l
     let run := r.waiters.takeWhile (fun w => w.mode == .shared)
     let out := u.grantRun l
     (run = [] → out = (u, [])) ∧
     (run ≠ [] →
       out.1.lock l = { r with
         waiters := r.waiters.dropWhile (fun w => w.mode == .shared)
         state := .shared
         holders := r.holders ++ run.map (fun w => ⟨w.port, .shared⟩)
         generation := r.generation + BitVec.ofNat 16 run.length
         leaseRemaining := if r.holders = [] then r.lease else r.leaseRemaining
         leaseRunning := if r.holders = [] then r.lease != 0 else r.leaseRunning
         leaseReported := if r.holders = [] then false else r.leaseReported }) ∧
     out.2 = run.mapIdx (fun i w =>
       ⟨w.port, w.tag, resultWord .granted l.val .shared (r.generation + BitVec.ofNat 16 (i + 1)) r.taint⟩) ∧
     (∀ l', l' ≠ l → out.1.lock l' = u.lock l') ∧
     (∀ p, (∀ w ∈ run, w.port ≠ p) → out.1.held p = u.held p ∧ out.1.wait p = u.wait p) ∧
     ((run.map Waiter.port).Nodup → ∀ i w, run[i]? = some w → out.1.wait w.port = none ∧
       out.1.held w.port =
         u.held w.port ++ [⟨l, .shared, r.generation + BitVec.ofNat 16 (i + 1), false, false⟩]))

/-- The result word and the inspect word field by field (Tables 1-7 and 1-8), the codes of Table 1-6, and the order of the bytes
of a field, the lowest-order byte first (R25, R118, Table 11-1). -/
def Obligations.WordFields : Prop :=
  (∀ x : BitVec 16, ∃ b0 b1 : Byte, bytes16 x = [b0, b1] ∧ b1 ++ b0 = x) ∧
  (∀ x : BitVec 32, ∃ b0 b1 b2 b3 : Byte, bytes32 x = [b0, b1, b2, b3] ∧ b3 ++ b2 ++ b1 ++ b0 = x) ∧
  (∀ (o : LockOutcome) (lock : Nat) (m : Mode) (g : BitVec 16) (taint : Bool), lock < 64 →
    let w := resultWord o lock m g taint
    w.extractLsb' 0 16 = g ∧ w.extractLsb' 16 8 = o.code ∧ w.extractLsb' 24 6 = BitVec.ofNat 6 lock ∧
      (w.getLsbD 30 = true ↔ m = .shared) ∧ w.getLsbD 31 = taint) ∧
  (∀ (r : LockRecord) (relation : Nat), relation < 4 → r.holders.length ≤ 6 → r.waiters.length ≤ 6 →
    let w := inspectWord r relation
    w.extractLsb' 0 16 = r.generation ∧ (w.extractLsb' 16 3).toNat = r.state.code ∧
      (w.extractLsb' 19 3).toNat = r.holders.length ∧ (w.extractLsb' 22 3).toNat = r.waiters.length ∧
      (w.extractLsb' 25 2).toNat = relation ∧ w.getLsbD 27 = r.taint ∧ (w.extractLsb' 28 4).toNat = r.level) ∧
  LockOutcome.granted.code = 0x01 ∧ LockOutcome.busy.code = 0x02 ∧ LockOutcome.order.code = 0x03 ∧
  LockOutcome.held.code = 0x04 ∧ LockOutcome.full.code = 0x05 ∧ LockOutcome.pending.code = 0x06 ∧
  LockOutcome.timeout.code = 0x07 ∧ LockOutcome.withdrawn.code = 0x08 ∧ LockOutcome.broken.code = 0x09 ∧
  LockOutcome.undefined.code = 0x0A ∧ LockOutcome.misuse.code = 0x0B ∧ LockOutcome.released.code = 0x10 ∧
  LockOutcome.releasedLoss.code = 0x11 ∧ LockOutcome.notHolder.code = 0x12 ∧ LockOutcome.revoked.code = 0x13 ∧
  LockOutcome.none.code = 0x14 ∧
  LockState.undefined.code = 0 ∧ LockState.free.code = 1 ∧ LockState.exclusive.code = 2 ∧ LockState.shared.code = 3 ∧
  LockState.draining.code = 4 ∧ LockState.broken.code = 5

/-! ### Lock clock, leases and revocation -/

/-- SET_CLOCK and the tick (R66, R67): an accepted period waits for the tick that ends the period now running; the tick
raises the counter, begins the next period with the last accepted value and hands a claim to each lock record, and reports
that wait stay for a FAULT_REPORT after it (R164). SET_WEIGHT (R140): K from 1 to 8 is taken and the fore-grant count keeps its
value. Values out of range are BAD_PARAM (R178). -/
def Obligations.ClockAndWeightSettings : Prop :=
  ((∀ (period : BitVec 16) (s : State), s.ready →
     (1 ≤ period.toNat → period.toNat ≤ 1000 → exec (.setClock period) s = .next
       (({ s with clock := { s.clock with nextPeriod := period } } : State).answered .done [])) ∧
     (period.toNat < 1 ∨ 1000 < period.toNat → exec (.setClock period) s = .next (s.answered .badParam []))) ∧
   (∀ s : State, s.resetLow = false →
     let ticked : LockClock := {
       period := s.clock.nextPeriod, nextPeriod := s.clock.nextPeriod, counter := s.clock.counter + 1,
       claims := Vector.ofFn (fun l : LockId => s.clock.claims[l] + 1) }
     exec .lockClockTick s = .next { s with clock := ticked })) ∧
  (∀ (k : Byte) (s : State), s.ready →
     (1 ≤ k.toNat → k.toNat ≤ 8 → exec (.setWeight k) s = .next
       (({ s with arbiter := { s.arbiter with weight := k.toNat } } : State).answered .done [])) ∧
     (k.toNat = 0 ∨ 8 < k.toNat → exec (.setWeight k) s = .next (s.answered .badParam [])))

/-- A tick claim at a lock record (R67, R38): a running lease and each limited wait fall by one, and a wait that reaches 0
is marked for its timeout; it waits for expiries of earlier claims (how claims are counted, and that a claim
lowers a wait or a lease that began after its tick, is the model's, log entries 9 and 33). -/
def Obligations.TickClaimLowersCounters : Prop :=
  ∀ (l : LockId) (s : State), s.resetLow = false →
    let r := s.lockUnit.lock l
    let blocked := s.clock.claims[l] = 0 ∨ (r.leaseRunning = true ∧ r.leaseRemaining = 0) ∨ ∃ w ∈ r.waiters, w.expired = true
    (blocked → exec (.tickClaim l) s = .next s) ∧
    (¬blocked → exec (.tickClaim l) s = .next { s with
      clock := { s.clock with claims := s.clock.claims.set l (s.clock.claims[l] - 1) }
      lockUnit := s.lockUnit.setLock l { r with
        leaseRemaining := if r.leaseRunning then r.leaseRemaining - 1 else r.leaseRemaining
        waiters := r.waiters.map (fun w => if w.remaining = 0 then w
          else { w with remaining := w.remaining - 1, expired := w.remaining == 1 }) } })

/-- A lease expiry (R69 to R71): discarded unless the lease still stands at 0 and running; under REPORT it stops the timer,
marks the lease reported and reports LEASE, with the port when the lock is EXCLUSIVE. -/
def Obligations.LeaseExpiryByPolicy : Prop :=
  ∀ (l : LockId) (s : State), s.resetLow = false →
    let r := s.lockUnit.lock l
    let due := r.leaseRunning = true ∧ r.leaseRemaining = 0
    (¬due → exec (.leaseExpiry l) s = .next s) ∧
    (∀ q, due → r.params = some q → q.leasePolicy = .report → exec (.leaseExpiry l) s = .next { s with
      lockUnit := s.lockUnit.setLock l { r with leaseRemaining := 0, leaseRunning := false, leaseReported := true }
      reports := s.reports ++ [⟨.lockUnit, [{
        cls := .lease, lock := some l, generation := some r.generation,
        port := if r.state = .exclusive then r.holders.head?.map Holder.port else none }]⟩] }) ∧
    (∀ q, due → r.params = some q → q.leasePolicy = .revoke → ∃ t, exec (.leaseExpiry l) s = .next t ∧
      LockEvent s t (s.lockUnit.revoke l) ∧ t.supervisor = s.supervisor)

/-- A revocation (R72 to R74): every holder's entry is marked revoked, the holder set empties, the lease stops, one REVOKED
record for each holder in grant order carries its entry's generation, and the lock settles; taint, generation and the other
entries and locks are untouched before the grant. FORCE_RELEASE (R78, R180): the revocation at an EXCLUSIVE or SHARED lock,
answered with the number of ports revoked and the state left; NO_HOLDER in any other state; BAD_PARAM above 63. -/
def Obligations.RevocationAndForceRelease : Prop :=
  (∀ (u : LockUnit) (l : LockId), ∃ v : LockUnit,
     (∀ p, v.held p = if (u.lock l).holders.any (fun h => h.port == p) then
         (u.held p).map (fun e => if e.lock = l then { e with revoked := true } else e)
       else u.held p) ∧
     v.waits = u.waits ∧
     (∀ l', v.lock l' = if l' = l then { u.lock l with holders := [], leaseRemaining := 0, leaseRunning := false }
       else u.lock l') ∧
     u.revoke l = {
       unit := (v.settle l).1, answers := (v.settle l).2,
       faults := (u.lock l).holders.map (fun h => {
         cls := .revoked, port := some h.port, lock := some l,
         generation := (u.entry h.port l).map HoldEntry.generation }) }) ∧
  (∀ (lock : Byte) (s : State), s.ready →
     (63 < lock.toNat → exec (.forceRelease lock) s = .next (s.answered .badParam [])) ∧
     (∀ l : LockId, l.val = lock.toNat →
       let r := s.lockUnit.lock l
       (r.state ≠ .exclusive → r.state ≠ .shared → exec (.forceRelease lock) s = .next (s.answered .noHolder [])) ∧
       (r.state = .exclusive ∨ r.state = .shared → ∃ t, exec (.forceRelease lock) s = .next t ∧
         LockEvent s t (s.lockUnit.revoke l) ∧
         t.supervisor = (s.answered .done
           [byteOf r.holders.length, byteOf (t.lockUnit.lock l).state.code]).supervisor)))

/-- A timeout (R39, R36, R37): the record whose wait ran out leaves, its ACQUIRE is answered TIMEOUT, a TIMEOUT fault is
reported, and only the removal of a SHARED lock's head grants the run behind it; with no such record nothing happens. -/
def Obligations.TimeoutRemovesTheWaiter : Prop :=
  ∀ (l : LockId) (p : PortId) (s : State), s.resetLow = false →
    let u := s.lockUnit
    let r := u.lock l
    (∀ w, u.waiterOf l p = some w → w.expired = true →
      let word := resultWord .timeout l.val w.mode r.generation r.taint
      let fault : FaultInfo := { cls := .timeout, port := some p, tag := some w.tag, lock := some l,
                                 generation := some r.generation }
      ∃ t, exec (.waitTimeout l p) s = .next t ∧ t.supervisor = s.supervisor ∧
        (¬u.headsShared l p → LockEvent s t
          { unit := u.unqueued l p, answers := [⟨p, w.tag, word⟩], faults := [fault] }) ∧
        (u.headsShared l p → LockEvent s t
          { unit := ((u.unqueued l p).grantRun l).1,
            answers := ⟨p, w.tag, word⟩ :: ((u.unqueued l p).grantRun l).2, faults := [fault] })) ∧
    ((∀ w, u.waiterOf l p = some w → w.expired = false) → exec (.waitTimeout l p) s = .next s)

/-! ### Issue arbiter and memory port -/

/-- The arbiter's decision (R139 to R141): with the issue slot free it chooses one eligible port, a BACK port when the
fore-grant count has reached K, else a FORE port, else a BACK port; round-robin from the class's pointer. That a decision
commanded with the slot held or with no port eligible changes nothing is the model's choice (log entry 2), and so are the
forms of the slot (log entry 24). -/
def Obligations.ArbiterDecision : Prop :=
  ∀ s : State, s.resetLow = false →
    let fore := s.isEligible .fore
    let back := s.isEligible .back
    let a := s.arbiter
    (a.slot ≠ .free ∨ ((∀ p, ¬fore p) ∧ ∀ p, ¬back p) → exec .issueDecision s = .next s) ∧
    (a.slot = .free →
      (∀ b, FirstFrom a.back back b → a.weight ≤ a.foreGrants ∨ (∀ p, ¬fore p) →
        exec .issueDecision s = .next
          { s with arbiter := { a with back := b + 1, foreGrants := 0, slot := .chosen b } }) ∧
      (∀ f, FirstFrom a.fore fore f → (∃ p, back p) → a.foreGrants < a.weight →
        exec .issueDecision s = .next
          { s with arbiter := { a with fore := f + 1, foreGrants := a.foreGrants + 1, slot := .chosen f } }) ∧
      (∀ f, FirstFrom a.fore fore f → (∀ p, ¬back p) →
        exec .issueDecision s = .next
          { s with arbiter := { a with fore := f + 1, foreGrants := 0, slot := .chosen f } }))

/-- The issue of a chosen PLAIN or GUARD-PASSED head (R142, R129): a flight-table entry without a guard lock, the request on
the link, the port's counts raised, OK at once for a write, and the next head handled. The slot becomes free when the last
byte has been sent. -/
def Obligations.IssueOfUnguardedHead : Prop :=
  (∀ (p : PortId) (q : Request) (qs : List Request) (s : State), s.resetLow = false → s.arbiter.slot = .chosen p →
    (s.port p).queue = q :: qs → (s.port p).headClass = some .plain ∨ (s.port p).headClass = some .guardPassed →
    exec .issue s = .next (State.advance
      { s.setPort p { s.port p with
          queue := qs, headClass := none, flight := (s.port p).flight + 1,
          writeFlight := (s.port p).writeFlight + (match q.kind with | .write => 1 | .read => 0) } with
        memPort := { s.memPort with table := s.memPort.table ++
          [{ port := p, tag := some q.tag, kind := q.kind, size := q.size, addr := q.addr, guard := none }] }
        arbiter := { s.arbiter with slot := .sending ⟨q.kind, q.size, q.addr, q.data⟩ } }
      p (match q.kind with | .write => [.response q.tag .ok []] | .read => []))) ∧
  (∀ (r : MemRequest) (s : State), s.resetLow = false → s.arbiter.slot = .sending r →
    exec .issueSlotFreed s = .next { s with arbiter := { s.arbiter with slot := .free } })

/-- The increment claim of a chosen GUARD-AUTHORIZED write (R75, R143): with the entry live and EXCLUSIVE the guard-flight
count rises and the write is issued under the guard lock; with it revoked, a GUARD_WRITE fault, and PASS issues the write
uncounted while DROP answers BLOCKED, sends nothing and frees the slot. -/
def Obligations.IncrementClaimDecides : Prop :=
  ∀ (p : PortId) (q : Request) (qs : List Request) (l : LockId) (w : WindowId) (policy : WritePolicy) (s : State),
    s.resetLow = false → s.arbiter.slot = .chosen p → (s.port p).queue = q :: qs → q.kind = .write →
    (s.port p).headClass = some (.guardAuthorized l w policy) →
    let r := s.lockUnit.lock l
    let issued (guard : Option LockId) : State :=
      { s.setPort p { s.port p with
          queue := qs, headClass := none, flight := (s.port p).flight + 1,
          writeFlight := (s.port p).writeFlight + 1 } with
        memPort := { s.memPort with table := s.memPort.table ++
          [{ port := p, tag := some q.tag, kind := .write, size := q.size, addr := q.addr, guard := guard }] }
        arbiter := { s.arbiter with slot := .sending ⟨.write, q.size, q.addr, q.data⟩ } }
    let reported : List Report := s.reports ++ [⟨.lockUnit, [{
      cls := .guardWrite, port := some p, tag := some q.tag, lock := some l, window := some w,
      generation := some r.generation, addr := some q.addr }]⟩]
    (∀ e, s.lockUnit.entry p l = some e → e.revoked = false → e.mode = .exclusive →
      exec .incrementClaim s = .next (State.advance
        { issued (some l) with lockUnit := s.lockUnit.setLock l { r with guardFlight := r.guardFlight + 1 } }
        p [.response q.tag .ok []])) ∧
    (∀ e, s.lockUnit.entry p l = some e → e.revoked = true →
      (policy = .pass → exec .incrementClaim s = .next (State.advance
        { issued none with reports := reported } p [.response q.tag .ok []])) ∧
      (policy = .drop → exec .incrementClaim s = .next (State.advance
        { s.setPort p { s.port p with queue := qs, headClass := none } with
          reports := reported, arbiter := { s.arbiter with slot := .free } }
        p [.response q.tag .blocked []])))

/-- A completion of a read (R145, R146): the oldest entry leaves, the port's flight count falls, an attached read is answered
with exactly its bytes or MEMFAIL, a FAIL reports MEM_READ with the tag while attached, and RESETTING may end; an OK with
another number of bytes is a FAIL. A completion of another session, or with the table empty, is discarded (that sessions are
told apart by a number is the model's, log entry 12). A completion of a write without a guard lock (R147, R130): the port's
two counts fall, the fence opens when its write-flight count reaches 0 and hands on the release held there, a FAIL reports
MEM_WRITE without a lock, and no RESPONSE is formed. -/
def Obligations.UnguardedCompletions : Prop :=
  ((∀ (n : Nat) (result : MemResult) (data : List Byte) (s : State), s.resetLow = false →
     n ≠ s.memPort.session ∨ s.memPort.table = [] → exec (.memCompletion n result data) s = .next s) ∧
   (∀ (e : FlightEntry) (rest : List FlightEntry) (result : MemResult) (data : List Byte) (s : State),
     s.resetLow = false → s.memPort.table = e :: rest → e.kind = .read →
     let good := result = .ok ∧ data.length = e.size
     let frames : List Frame := match e.tag with
       | none => []
       | some t => [if good then .response t .ok data else .response t .memfail []]
     exec (.memCompletion s.memPort.session result data) s = .next (State.endReset
       { s.setPort e.port { s.port e.port with
           flight := (s.port e.port).flight - 1, sendList := (s.port e.port).sendList ++ frames } with
         memPort := { s.memPort with table := rest }
         reports := s.reports ++ if good then []
           else [⟨.memPort, [{ cls := .memRead, port := some e.port, tag := e.tag, addr := some e.addr }]⟩] }
       e.port))) ∧
  (∀ (e : FlightEntry) (rest : List FlightEntry) (result : MemResult) (data : List Byte) (s : State),
     s.resetLow = false → s.memPort.table = e :: rest → e.kind = .write → e.guard = none →
     let counted : PortRecord := { s.port e.port with
       flight := (s.port e.port).flight - 1, writeFlight := (s.port e.port).writeFlight - 1 }
     let done (r : PortRecord) : State := State.endReset
       { s.setPort e.port r with
         memPort := { s.memPort with table := rest }
         reports := s.reports ++ match result with
           | .ok => []
           | .fail => [⟨.memPort, [{ cls := .memWrite, port := some e.port, tag := e.tag, addr := some e.addr }]⟩] }
       e.port
     (∀ op, counted.headClass = some (.heldRelease op) → counted.writeFlight = 0 →
       exec (.memCompletion s.memPort.session result data) s = .next (done { counted with
         queue := counted.queue.tail, headClass := none, handed := some op })) ∧
     ((∀ op, counted.headClass ≠ some (.heldRelease op)) ∨ counted.writeFlight ≠ 0 →
       exec (.memCompletion s.memPort.session result data) s = .next (done counted)))

/-- A completion of a counted write (R77, R110, R147): at the guard lock first, on FAIL taint, the loss mark of the live
EXCLUSIVE entry of the issuing port and a MEM_WRITE record; then the count falls; then DRAINING ends at 0. In the same event
the port lowers its two counts, its release fence opens when no write is left (R130), and RESETTING may end (R153). -/
def Obligations.GuardedWriteCompletion : Prop :=
  ∀ (e : FlightEntry) (rest : List FlightEntry) (l : LockId) (result : MemResult) (data : List Byte) (s : State),
    s.resetLow = false → s.memPort.table = e :: rest → e.kind = .write → e.guard = some l →
    let u := s.lockUnit
    let r := u.lock l
    let counted : LockUnit := match result with
      | .ok => u.setLock l { r with guardFlight := r.guardFlight - 1 }
      | .fail => (u.setLock l { r with guardFlight := r.guardFlight - 1, taint := true }).setHeld e.port
          ((u.held e.port).map (fun h =>
            if h.lock = l ∧ h.revoked = false ∧ h.mode = .exclusive then { h with loss := true } else h))
    let faults : List FaultInfo := match result with
      | .ok => []
      | .fail => [{ cls := .memWrite, port := some e.port, tag := e.tag, lock := some l,
                    generation := some r.generation, addr := some e.addr }]
    let taken : State := { s with memPort := { s.memPort with table := rest } }
    ∃ t1 port, exec (.memCompletion s.memPort.session result data) s =
        .next ((t1.setPort e.port port).endReset e.port) ∧
      (r.state = .draining → r.guardFlight = 1 →
        LockEvent taken t1 { unit := (counted.settle l).1, answers := (counted.settle l).2, faults := faults }) ∧
      (r.state ≠ .draining ∨ 1 < r.guardFlight → LockEvent taken t1 { unit := counted, faults := faults }) ∧
      t1.supervisor = s.supervisor ∧
      (let lowered : PortRecord := { t1.port e.port with
         flight := (t1.port e.port).flight - 1, writeFlight := (t1.port e.port).writeFlight - 1 }
       (∀ op, lowered.headClass = some (.heldRelease op) → lowered.writeFlight = 0 →
         port = { lowered with queue := lowered.queue.tail, headClass := none, handed := some op }) ∧
       ((∀ op, lowered.headClass ≠ some (.heldRelease op)) ∨ lowered.writeFlight ≠ 0 → port = lowered))

/-! ### Port reset and orphans -/

/-- The port-gone claim (R154): the wait first, without an answer, then the hold entries oldest first, then the empty list. It
is taken once the port has handed it on, before or after a WITHDRAW (R45), an INSPECT or a MISUSE access that the port handed on
before its reset, and, by the model's reading, behind an acquisition or a release so handed on (log entry 7); else nothing
happens (log entry 2). RESETTING ends when the claim has been taken and the port flight count is 0 (R153): the
port is OFFLINE, and a RESET_PORT in progress for it is answered DONE (R181). -/
def Obligations.PortGoneClaimAndResetting : Prop :=
  (∀ (p : PortId) (s : State), s.resetLow = false →
     let u := s.lockUnit
     let comesFirst (op : LockOp) : Prop :=
       op.kind ≠ .withdraw ∧ op.kind ≠ .inspect ∧ op.kind ≠ .misuse
     ((s.port p).claimDue = false ∨ (∃ op, (s.port p).handed = some op ∧ comesFirst op) →
       exec (.portGoneClaim p) s = .next s) ∧
     ((s.port p).claimDue = true → (∀ op, (s.port p).handed = some op → ¬comesFirst op) →
       ∃ (v : LockUnit) (run : List Answer) (t1 : State),
         (u.wait p = none → v = u ∧ run = []) ∧
         (∀ l, u.wait p = some l → ¬u.headsShared l p → v = u.unqueued l p ∧ run = []) ∧
         (∀ l, u.wait p = some l → u.headsShared l p → (v, run) = (u.unqueued l p).grantRun l) ∧
         LockEvent s t1 {
           unit := (v.claimEntries p (v.held p)).unit.setHeld p [],
           answers := run ++ (v.claimEntries p (v.held p)).answers,
           faults := (v.claimEntries p (v.held p)).faults } ∧
         t1.lockUnit.held p = [] ∧ t1.lockUnit.wait p = none ∧
         (∀ l, u.wait p ≠ some l → (∀ e ∈ u.held p, e.lock ≠ l) → t1.lockUnit.lock l = u.lock l) ∧
         (∀ q, q ≠ p → ∃ es, t1.lockUnit.held q = u.held q ++ es) ∧
         t1.supervisor = s.supervisor ∧
         exec (.portGoneClaim p) s = .next ((t1.setPort p { t1.port p with claimDue := false }).endReset p))) ∧
  (∀ (p : PortId) (s : State),
     let ended := (s.port p).link = .resetting ∧ (s.port p).claimDue = false ∧ (s.port p).flight = 0
     (ended → s.supervisor.command = .inProgress p → s.endReset p =
       { s.setPort p { s.port p with link := .offline } with
         supervisor := { s.supervisor with command := .complete, result := ⟨.done, []⟩ } }) ∧
     (ended → s.supervisor.command ≠ .inProgress p → s.endReset p = s.setPort p { s.port p with link := .offline }) ∧
     (¬ended → s.endReset p = s))

/-- One hold entry of the claim (R155 to R158): a revoked entry changes nothing; a live SHARED one leaves the holder set; a
live EXCLUSIVE one is an orphan, with an ORPHAN record, taint set and the holder set emptied, after which RELEASE settles
the lock and BREAK breaks it, answering every waiter BROKEN. Entries are taken in order. -/
def Obligations.OrphansByPolicy : Prop :=
  ∀ (p : PortId) (e : HoldEntry) (u : LockUnit),
    let r := u.lock e.lock
    let emptied : LockRecord := { r with holders := [], leaseRemaining := 0, leaseRunning := false }
    let orphan : FaultInfo :=
      { cls := .orphan, port := some p, lock := some e.lock, generation := some e.generation }
    u.claimEntries p [] = { unit := u } ∧
    (∀ es, u.claimEntries p (e :: es) = {
      unit := ((u.claimEntry p e).unit.claimEntries p es).unit,
      answers := (u.claimEntry p e).answers ++ ((u.claimEntry p e).unit.claimEntries p es).answers,
      faults := (u.claimEntry p e).faults ++ ((u.claimEntry p e).unit.claimEntries p es).faults }) ∧
    (e.revoked = true → u.claimEntry p e = { unit := u }) ∧
    (e.revoked = false → e.mode = .shared →
      (r.holders.filter (fun h => h.port != p) ≠ [] → u.claimEntry p e =
        { unit := u.setLock e.lock { r with holders := r.holders.filter (fun h => h.port != p) } }) ∧
      (r.holders.filter (fun h => h.port != p) = [] → u.claimEntry p e =
        { unit := ((u.setLock e.lock emptied).settle e.lock).1,
          answers := ((u.setLock e.lock emptied).settle e.lock).2 })) ∧
    (∀ q, e.revoked = false → e.mode = .exclusive → r.params = some q →
      (q.orphanPolicy = .release → u.claimEntry p e =
        { unit := ((u.setLock e.lock { emptied with taint := true }).settle e.lock).1,
          answers := ((u.setLock e.lock { emptied with taint := true }).settle e.lock).2, faults := [orphan] }) ∧
      (q.orphanPolicy = .breakLock →
        (u.claimEntry p e).unit.lock e.lock = { emptied with taint := true, state := .broken, waiters := [] } ∧
        (∀ l, l ≠ e.lock → (u.claimEntry p e).unit.lock l = u.lock l) ∧
        (u.claimEntry p e).unit.holds = u.holds ∧
        (∀ x, (u.claimEntry p e).unit.wait x = if r.waiters.any (fun w => w.port == x) then none else u.wait x) ∧
        (u.claimEntry p e).answers = r.waiters.map (fun w =>
          ⟨w.port, w.tag, resultWord .broken e.lock.val w.mode r.generation true⟩) ∧
        (u.claimEntry p e).faults = [orphan]))

/-! ### Fault unit -/

/-- The fault unit takes the oldest report of a block whole (R163 to R166, R168, R171): its records carry the tick counter at
the taking (R164, R65) and join the log while it has room; further ones are lost and set MORE on the youngest; every class
becomes pending; ALERT# follows. Only a tick or RESET# moves the counter, so the record of a completion carries the count at the
completion, of which R150 speaks, unless a tick or RESET# comes between (the model's choice there: log entry 27). -/
def Obligations.FaultReportIsTakenWhole : Prop :=
  (∀ (src : FaultSource) (s : State), s.resetLow = false →
     ((∀ r ∈ s.reports, r.source ≠ src) → exec (.faultReport src) s = .next s) ∧
     (∀ before r after, s.reports = before ++ r :: after → (∀ b ∈ before, b.source ≠ src) → r.source = src →
       ∃ f : FaultUnit, exec (.faultReport src) s = .next { s with reports := before ++ after, faultUnit := f } ∧
         f.enabledClasses = s.faultUnit.enabledClasses ∧
         (∀ c : FaultClass, f.pendingClasses.getLsbD (c.code - 1) = true ↔
           s.faultUnit.pendingClasses.getLsbD (c.code - 1) = true ∨ ∃ i ∈ r.faults, i.cls = c) ∧
         (f.alert = true ↔ f.pendingClasses &&& f.enabledClasses ≠ 0) ∧
         (let record (i : FaultInfo) : FaultRecord := { info := i, tick := s.clock.counter, more := false }
          (s.faultUnit.log.length + r.faults.length ≤ 16 → f.log = s.faultUnit.log ++ r.faults.map record) ∧
          (s.faultUnit.log.length ≤ 16 → 16 < s.faultUnit.log.length + r.faults.length →
            ∃ older youngest, s.faultUnit.log ++ (r.faults.take (16 - s.faultUnit.log.length)).map record =
                older ++ [youngest] ∧
              f.log = older ++ [{ youngest with more := true }])))) ∧
  ∀ (c : Instr) (s t : State), exec c s = .next t → t.clock.counter ≠ s.clock.counter →
    c = .lockClockTick ∨ isResetCommand c = true

/-- READ_FAULT (R167): the oldest record leaves the log and is returned with DONE, or EMPTY; the pending set, the enable set
and ALERT# stay. The 16 bytes of a record (Table 10-2): class and MORE, the present bits, port, tag, lock and window, generation,
address and tick count, each absent field as 0; and the class codes of Table 10-1. -/
def Obligations.ReadFaultTakesOldest : Prop :=
  (∀ s : State, s.ready →
    (s.faultUnit.log = [] → exec .readFault s = .next (s.answered .empty [])) ∧
    (∀ r rest, s.faultUnit.log = r :: rest → r.bytes.length = 16 ∧ exec .readFault s = .next
      (({ s with faultUnit := { s.faultUnit with log := rest } } : State).answered .done r.bytes))) ∧
  (∀ r : FaultRecord,
    let i := r.info
    r.bytes =
      [ byteOf (i.cls.code + 128 * r.more.toNat),
        byteOf (i.port.isSome.toNat + 2 * i.tag.isSome.toNat + 4 * i.lock.isSome.toNat + 8 * i.window.isSome.toNat +
          16 * i.generation.isSome.toNat + 32 * i.addr.isSome.toNat),
        (match i.port with | some p => byteOf p.val | none => 0),
        (match i.tag with | some t => byteOf t.val | none => 0),
        (match i.lock with | some l => byteOf l.val | none => 0),
        (match i.window with | some w => byteOf w.val | none => 0) ] ++
      bytes16 (match i.generation with | some g => g | none => 0) ++
      bytes32 (match i.addr with | some a => a | none => 0) ++ bytes32 r.tick) ∧
  FaultClass.decode.code = 0x1 ∧ FaultClass.misuse.code = 0x2 ∧ FaultClass.guardWrite.code = 0x3 ∧
  FaultClass.guardRead.code = 0x4 ∧ FaultClass.order.code = 0x5 ∧ FaultClass.timeout.code = 0x6 ∧
  FaultClass.lease.code = 0x7 ∧ FaultClass.revoked.code = 0x8 ∧ FaultClass.orphan.code = 0x9 ∧
  FaultClass.memRead.code = 0xA ∧ FaultClass.memWrite.code = 0xB ∧ FaultClass.link.code = 0xC

/-- SET_ALERT_MASK and CLEAR_ALERT (R169, R170, R171): the enable set is replaced, or the named classes leave the pending
set, and ALERT# is asserted exactly while some class is both pending and enabled. -/
def Obligations.AlertSetsAndTheLine : Prop :=
  ∀ (classes : BitVec 16) (s : State), s.ready →
    let f := s.faultUnit
    let named := classes.setWidth 12
    exec (.setAlertMask classes) s = .next (({ s with faultUnit := { f with
      enabledClasses := named, alert := decide (f.pendingClasses &&& named ≠ 0) } } : State).answered .done []) ∧
    exec (.clearAlert classes) s = .next (({ s with faultUnit := { f with
      pendingClasses := f.pendingClasses &&& ~~~named,
      alert := decide ((f.pendingClasses &&& ~~~named) &&& f.enabledClasses ≠ 0) } } : State).answered .done [])

/-! ### Supervisor commands -/

/-- SET_PORT (R135, R178): all three items are written; disabling an ONLINE port also starts a port reset with NOTICE
CLOSE; a number, flag or class out of range is BAD_PARAM. -/
def Obligations.SetPortWritesItems : Prop :=
  ∀ (port enable cls : Byte) (limit : BitVec 16) (s : State), s.ready →
    let c : Instr := .setPort port enable cls limit
    (5 < port.toNat ∨ 1 < enable.toNat ∨ 1 < cls.toNat → exec c s = .next (s.answered .badParam [])) ∧
    (∀ p : PortId, p.val = port.toNat → enable.toNat ≤ 1 → cls.toNat ≤ 1 →
      let written := s.setPort p { s.port p with
        enabled := enable == 1, cls := if cls = 0 then .fore else .back, waitLimit := limit }
      ((s.port p).link ≠ .online ∨ enable = 1 → exec c s = .next (written.answered .done [])) ∧
      ((s.port p).link = .online → enable = 0 → ∃ t, exec c s = .next t ∧ PortResetDone written t p true ∧
        t.reports = s.reports ∧ t.supervisor = (s.answered .done []).supervisor))

/-- DEFINE_WINDOW (R89, R90): out-of-range parameters are BAD_PARAM before the state is looked at; an ENABLED window is
IN_USE; any other takes every field and becomes DEFINED, absent fields whatever the command carries. -/
def Obligations.DefineWindowByState : Prop :=
  ∀ (window : Byte) (base pages : BitVec 32) (kind lockRef wp rp : Byte) (s : State), s.ready →
    let c : Instr := .defineWindow window base pages kind lockRef wp rp
    let bad := 15 < window.toNat ∨ pages.toNat = 0 ∨ 1048576 < pages.toNat ∨ 1048575 < base.toNat ∨
      1048576 < base.toNat + pages.toNat ∨ (kind ≠ 1 ∧ kind ≠ 2 ∧ kind ≠ 3) ∨
      ((kind = 1 ∨ kind = 2) ∧ 63 < lockRef.toNat) ∨ (kind = 2 ∧ (1 < wp.toNat ∨ 2 < rp.toNat))
    (bad → exec c s = .next (s.answered .badParam [])) ∧
    (¬bad → ∃ (w : WindowId) (d : WindowDef), w.val = window.toNat ∧ d.base = base.toNat ∧ d.pages = pages.toNat ∧
      (kind = 1 → ∃ l : LockId, l.val = lockRef.toNat ∧ d.kind = .lock l) ∧
      (kind = 2 → ∃ (l : LockId) (a : WritePolicy) (b : ReadPolicy), l.val = lockRef.toNat ∧ a.code = wp.toNat ∧
        b.code = rp.toNat ∧ d.kind = .guard l a b) ∧
      (kind = 3 → d.kind = .block) ∧
      ((∀ x, s.window w ≠ .enabled x) → exec c s = .next ((s.setWindow w (.defined d)).answered .done [])) ∧
      ((∃ x, s.window w = .enabled x) → exec c s = .next (s.answered .inUse [])))

/-- ENABLE_WINDOW (R91, R92): its four checks in order, the overlap naming the lowest-numbered ENABLED window that shares a
page; else the window becomes ENABLED. DISABLE_WINDOW (R93, R94): an ENABLED LOCK window that maps a busy lock is IN_USE with
the lowest such lock; any other ENABLED window becomes DEFINED with its fields kept; DEFINED is DONE, UNDEFINED is
NOT_DEFINED. -/
def Obligations.EnableAndDisableWindow : Prop :=
  (∀ (window : Byte) (s : State), s.ready →
     let c : Instr := .enableWindow window
     (15 < window.toNat → exec c s = .next (s.answered .badParam [])) ∧
     (∀ w : WindowId, w.val = window.toNat →
       ((∀ d, s.window w ≠ .defined d) → exec c s = .next (s.answered .notDefined [])) ∧
       (∀ d, s.window w = .defined d →
         let shares (v : WindowId) : Prop := v ≠ w ∧ ∃ e, s.window v = .enabled e ∧
           d.base < e.base + e.pages ∧ e.base < d.base + d.pages
         let guardless := ∃ l wp rp, d.kind = .guard l wp rp ∧ (s.lockUnit.lock l).state = .undefined
         (guardless → exec c s = .next (s.answered .notDefined [])) ∧
         (¬guardless → ∀ v, shares v → (∀ x, x < v → ¬shares x) →
           exec c s = .next (s.answered .overlap [byteOf v.val])) ∧
         (¬guardless → (∀ v, ¬shares v) →
           exec c s = .next ((s.setWindow w (.enabled d)).answered .done []))))) ∧
  (∀ (window : Byte) (s : State), s.ready →
     let c : Instr := .disableWindow window
     (15 < window.toNat → exec c s = .next (s.answered .badParam [])) ∧
     (∀ w : WindowId, w.val = window.toNat →
       (s.window w = .undefined → exec c s = .next (s.answered .notDefined [])) ∧
       (∀ d, s.window w = .defined d → exec c s = .next (s.answered .done [])) ∧
       (∀ d, s.window w = .enabled d →
         let busy (l : LockId) : Prop := ∃ first : LockId, d.kind = .lock first ∧ first.val ≤ l.val ∧
           l.val < first.val + 128 * d.pages ∧
           ((s.lockUnit.lock l).holders ≠ [] ∨ (s.lockUnit.lock l).waiters ≠ [] ∨
             (s.lockUnit.lock l).state = .draining ∨ ∃ p, ∃ e ∈ s.lockUnit.held p, e.lock = l ∧ e.revoked = true)
         (∀ l, busy l → (∀ x, x < l → ¬busy x) → exec c s = .next (s.answered .inUse [byteOf l.val])) ∧
         ((∀ l, ¬busy l) → exec c s = .next ((s.setWindow w (.defined d)).answered .done [])))))

/-- READ_WINDOW (R95, R179): the record in 14 bytes with absent fields as 0; BAD_PARAM above 15. READ_ALERT (R172): the
pending set, the enable set and the fill of the log. READ_STATUS (R186): the 12-byte status block, all of it read at one
instant (log entry 30, the model's choice where R177 leaves the order open), and not while a RESET_PORT is in progress: then
the write gets NAK (R175; the bit that shows it is the model's, log entry 16). None of them changes anything else. -/
def Obligations.ReadingCommands : Prop :=
  (∀ (window : Byte) (s : State), s.ready →
     let c : Instr := .readWindow window
     let data (state : Byte) (d : WindowDef) : List Byte :=
       [window, state] ++ bytes32 (BitVec.ofNat 32 d.base) ++ bytes32 (BitVec.ofNat 32 d.pages) ++
         match d.kind with
         | .lock l => [1, byteOf l.val, 0, 0]
         | .guard l wp rp => [2, byteOf l.val, byteOf wp.code, byteOf rp.code]
         | .block => [3, 0, 0, 0]
     (15 < window.toNat → exec c s = .next (s.answered .badParam [])) ∧
     (∀ w : WindowId, w.val = window.toNat →
       (s.window w = .undefined → exec c s = .next (s.answered .done (window :: List.replicate 13 0))) ∧
       (∀ d, s.window w = .defined d → exec c s = .next (s.answered .done (data 1 d))) ∧
       (∀ d, s.window w = .enabled d → exec c s = .next (s.answered .done (data 2 d))))) ∧
  (∀ s : State, s.ready → exec .readAlert s = .next (s.answered .done
     (bytes16 (s.faultUnit.pendingClasses.setWidth 16) ++ bytes16 (s.faultUnit.enabledClasses.setWidth 16) ++
       [byteOf s.faultUnit.log.length]))) ∧
  (∀ s : State,
     (s.ready → exec .readStatus s = .next (s.answered .done
       ([byteOf (s.port 0).link.code, byteOf (s.port 1).link.code, byteOf (s.port 2).link.code,
         byteOf (s.port 3).link.code, byteOf (s.port 4).link.code, byteOf (s.port 5).link.code] ++
         bytes32 s.clock.counter ++ [byteOf s.faultUnit.log.length, byteOf s.memPort.table.length]))) ∧
     (∀ p, s.supervisor.command = .inProgress p → exec .readStatus s = .next (s.acknowledge false)))

/-- DEFINE_LOCK (R4, R180): BAD_PARAM for a number, level or policy out of range; from UNDEFINED a FREE record with the
parameters and every other field as at power-on; at a FREE lock only the parameters are replaced; else NOT_FREE.
UNDEFINE_LOCK and REPAIR_LOCK (R5, R160): their checks in order, then the power-on values of R1, or FREE with the lease
stopped and every other field kept. -/
def Obligations.LockCommandsByState : Prop :=
  (∀ (lock level : Byte) (lease : BitVec 16) (leasePolicy orphanPolicy : Byte) (s : State), s.ready →
     let c : Instr := .defineLock lock level lease leasePolicy orphanPolicy
     (63 < lock.toNat ∨ level.toNat = 0 ∨ 15 < level.toNat ∨ 1 < leasePolicy.toNat ∨ 1 < orphanPolicy.toNat →
       exec c s = .next (s.answered .badParam [])) ∧
     (∀ l : LockId, l.val = lock.toNat → 1 ≤ level.toNat → level.toNat ≤ 15 → leasePolicy.toNat ≤ 1 →
       orphanPolicy.toNat ≤ 1 → ∃ q : LockParams, q.level.toNat = level.toNat ∧ q.lease = lease ∧
         q.leasePolicy.code = leasePolicy.toNat ∧ q.orphanPolicy.code = orphanPolicy.toNat ∧
         ((s.lockUnit.lock l).state = .undefined → exec c s = .next ((s.setUnit (s.lockUnit.setLock l
           { state := .free, params := some q, holders := [], waiters := [], generation := 0, taint := false,
             leaseRemaining := 0, leaseRunning := false, leaseReported := false, guardFlight := 0 })).answered .done [])) ∧
         ((s.lockUnit.lock l).state = .free → exec c s = .next
           ((s.setUnit (s.lockUnit.setLock l { s.lockUnit.lock l with params := some q })).answered .done [])) ∧
         ((s.lockUnit.lock l).state ≠ .undefined → (s.lockUnit.lock l).state ≠ .free →
           exec c s = .next (s.answered .notFree [])))) ∧
  (∀ (lock : Byte) (s : State), s.ready →
     (63 < lock.toNat → exec (.undefineLock lock) s = .next (s.answered .badParam []) ∧
       exec (.repairLock lock) s = .next (s.answered .badParam [])) ∧
     (∀ l : LockId, l.val = lock.toNat →
       let r := s.lockUnit.lock l
       let removable := r.state = .free ∨ (r.state = .broken ∧ r.guardFlight = 0)
       let guards := ∃ w d wp rp, s.window w = .enabled d ∧ d.kind = .guard l wp rp
       let listed := ∃ p, ∃ e ∈ s.lockUnit.held p, e.lock = l
       (¬removable → exec (.undefineLock lock) s = .next (s.answered .notFree [])) ∧
       (removable → guards ∨ listed → exec (.undefineLock lock) s = .next (s.answered .inUse [])) ∧
       (removable → ¬guards → ¬listed → exec (.undefineLock lock) s = .next
         ((s.setUnit (s.lockUnit.setLock l LockRecord.powerOn)).answered .done [])) ∧
       (r.state ≠ .broken → exec (.repairLock lock) s = .next (s.answered .notBroken [])) ∧
       (r.state = .broken → r.guardFlight ≠ 0 → exec (.repairLock lock) s = .next (s.answered .draining [])) ∧
       (r.state = .broken → r.guardFlight = 0 → exec (.repairLock lock) s = .next
         ((s.setUnit (s.lockUnit.setLock l
           { r with state := .free, leaseRemaining := 0, leaseRunning := false })).answered .done []))))

/-- RESET_PORT (R151, R181): DONE at an OFFLINE port; at an ONLINE port a port reset with NOTICE CLOSE, and IN_PROGRESS; at
a RESETTING port IN_PROGRESS without a second reset; BAD_PARAM above 5. -/
def Obligations.ResetPortByLinkState : Prop :=
  ∀ (port : Byte) (s : State), s.ready →
    let c : Instr := .resetPort port
    (5 < port.toNat → exec c s = .next (s.answered .badParam [])) ∧
    (∀ p : PortId, p.val = port.toNat →
      let started : Supervisor :=
        { s.supervisor with command := .inProgress p, result := ⟨.inProgress, []⟩, acked := true }
      ((s.port p).link = .offline → exec c s = .next (s.answered .done [])) ∧
      ((s.port p).link = .online → ∃ t, exec c s = .next t ∧ PortResetDone s t p true ∧ t.reports = s.reports ∧
        t.supervisor = started) ∧
      ((s.port p).link = .resetting → exec c s = .next { s with supervisor := started }))

/-- The snapshot buffer (R182): a number out of range is BAD_PARAM, a latched buffer STILL_LATCHED and kept; else the copy
of the lock record, or of the port record with its hold list and wait (R184, R64), is latched. READ_SNAPSHOT returns it and
empties the buffer, or answers EMPTY. The bytes of both snapshots as R183 and R184 lay them out, and their lengths 14 + h + 4w
and 16 + 4e. -/
def Obligations.SnapshotBuffer : Prop :=
  (∀ (l : LockId) (r : LockRecord),
    let shared (m : Mode) : Nat := match m with | .shared => 128 | .exclusive => 0
    let level : Nat := match r.params with | some q => q.level.toNat | none => 0
    let lease : BitVec 16 := match r.params with | some q => q.lease | none => 0
    let policies : Nat := match r.params with
      | some q => 8 * q.leasePolicy.code + 16 * q.orphanPolicy.code
      | none => 0
    let b := Snapshot.bytes (.lock l r)
    b = [ 0x01, byteOf l.val,
          byteOf (r.state.code + policies + 32 * r.taint.toNat + 64 * r.leaseRunning.toNat + 128 * r.leaseReported.toNat),
          byteOf level ] ++
        bytes16 lease ++ bytes16 r.leaseRemaining ++ bytes16 r.generation ++
        [byteOf r.guardFlight, byteOf r.holders.length, byteOf r.waiters.length, 0] ++
        (List.finRange 6).flatMap (fun p => match r.holders.find? (fun h => h.port == p) with
          | some h => [byteOf (p.val + shared h.mode)]
          | none => []) ++
        r.waiters.flatMap (fun w => [byteOf w.port.val, byteOf (w.tag.val + shared w.mode)] ++ bytes16 w.remaining) ∧
    ((r.holders.map Holder.port).Nodup → b.length = 14 + r.holders.length + 4 * r.waiters.length)) ∧
  (∀ (p : PortId) (v : PortView),
    let b := Snapshot.bytes (.port p v)
    b = [ 0x02, byteOf p.val,
          byteOf (v.link.code + 4 * v.enabled.toNat + 8 * v.cls.code + 16 * v.atFence.toNat) ] ++
        bytes16 v.waitLimit ++ bytes16 v.outstanding ++
        [ byteOf v.queued, byteOf v.flight, byteOf v.writeFlight, byteOf v.badCount,
          byteOf (v.holds.length + v.wait.isSome.toNat),
          (match v.wait with | some w => byteOf w.lock.val | none => 0xFF),
          (match v.wait with | some w => byteOf (w.tag.val + 128 * w.mode.code) | none => 0),
          byteOf v.holds.length, 0 ] ++
        v.holds.flatMap (fun e =>
          [byteOf e.lock.val, byteOf (e.mode.code + 2 * e.revoked.toNat + 4 * e.loss.toNat)] ++ bytes16 e.generation) ∧
    b.length = 16 + 4 * v.holds.length) ∧
  ∀ (n : Byte) (s : State), s.ready →
    let latched (x : Snapshot) : State := { s with supervisor := { s.supervisor with snapshot := some x } }
    (63 < n.toNat → exec (.snapshotLock n) s = .next (s.answered .badParam [])) ∧
    (5 < n.toNat → exec (.snapshotPort n) s = .next (s.answered .badParam [])) ∧
    (∀ l : LockId, l.val = n.toNat →
      (s.supervisor.snapshot ≠ none → exec (.snapshotLock n) s = .next (s.answered .stillLatched [])) ∧
      (s.supervisor.snapshot = none → exec (.snapshotLock n) s = .next
        ((latched (.lock l (s.lockUnit.lock l))).answered .done []))) ∧
    (∀ p : PortId, p.val = n.toNat →
      (s.supervisor.snapshot ≠ none → exec (.snapshotPort n) s = .next (s.answered .stillLatched [])) ∧
      (s.supervisor.snapshot = none → ∃ v : PortView, exec (.snapshotPort n) s = .next
          ((latched (.port p v)).answered .done []) ∧
        v.link = (s.port p).link ∧ v.enabled = (s.port p).enabled ∧ v.cls = (s.port p).cls ∧
        (v.atFence = true ↔ ∃ op, (s.port p).headClass = some (.heldRelease op)) ∧
        v.waitLimit = (s.port p).waitLimit ∧ v.outstanding = (s.port p).outstanding ∧
        v.queued = (s.port p).queue.length ∧ v.flight = (s.port p).flight ∧
        v.writeFlight = (s.port p).writeFlight ∧ v.badCount = (s.port p).badCount ∧
        v.holds = s.lockUnit.held p ∧ (s.lockUnit.wait p = none → v.wait = none) ∧
        (∀ l w, s.lockUnit.wait p = some l → s.lockUnit.waiterOf l p = some w →
          v.wait = some { lock := l, mode := w.mode, tag := w.tag }))) ∧
    (s.supervisor.snapshot = none → exec .readSnapshot s = .next (s.answered .empty [])) ∧
    (∀ x, s.supervisor.snapshot = some x → exec .readSnapshot s = .next
      (({ s with supervisor := { s.supervisor with snapshot := none } } : State).answered .done x.bytes))

/-- Writes that reach no block (R174, R175): a frame whose form is wrong is BAD_PARAM; while a command is IN_PROGRESS every
write is refused with NAK and nothing else changes (the acknowledge bit is the model's, log entry 16). Transactions (R161, R173,
R174, R176; a read is a function of the state, log entry 21): the part answers its own address only, and none with RESET# low; a
read returns the result frame from byte 0 and 0x00 beyond it; a write with a byte after the address carries the command its
bytes spell. The result frame is status, data length, data (Table 11-1), with the status codes of Table 11-2. -/
def Obligations.RefusedCommandWrites : Prop :=
  (∀ (bytes : List Byte) (s : State), s.ready → bytes ≠ [] → commandFormGood bytes = false →
    exec (.badCommandFrame bytes) s = .next (s.answered .badParam [])) ∧
  (∀ (c : Instr) (p : PortId) (s : State), isSupervisorWrite c = true → s.supervisor.command = .inProgress p →
    exec c s = .next (s.acknowledge false)) ∧
  (∀ (address : BitVec 7) (n : Nat) (s : State),
    let result := s.supervisor.result
    let frame : List Byte := result.status.code :: byteOf result.data.length :: result.data
    (s.resetLow = true ∨ address ≠ 0x58#7 + s.supervisor.straps.setWidth 7 → s.readResult address n = none) ∧
    (s.resetLow = false → address = 0x58#7 + s.supervisor.straps.setWidth 7 →
      s.readResult address n = some ((frame ++ List.replicate n 0).take n))) ∧
  (∀ (address : BitVec 7) (bytes : List Byte) (s : State),
    (s.resetLow = true ∨ address ≠ 0x58#7 + s.supervisor.straps.setWidth 7 ∨ bytes = [] →
      s.writtenCommand address bytes = none) ∧
    (s.resetLow = false → address = 0x58#7 + s.supervisor.straps.setWidth 7 → bytes ≠ [] →
      s.writtenCommand address bytes = some (commandFrame bytes))) ∧
  Status.done.code = 0x00 ∧ Status.inProgress.code = 0x01 ∧ Status.badParam.code = 0x02 ∧ Status.inUse.code = 0x03 ∧
  Status.overlap.code = 0x04 ∧ Status.notDefined.code = 0x05 ∧ Status.notFree.code = 0x06 ∧ Status.noHolder.code = 0x07 ∧
  Status.notBroken.code = 0x08 ∧ Status.draining.code = 0x09 ∧ Status.stillLatched.code = 0x0A ∧ Status.empty.code = 0x0B

/-! ### Encodings -/

/-- Agent frames (R118, Table 7-2): the bytes of every good frame are read back as the command they carry, with every
field, and a frame whose check byte is wrong is a bad frame. Frames of the part: a RESPONSE is its type, tag and result, data
length and data, a NOTICE its type, kind and detail, each with the check byte over the bytes before it; and the result and
reason codes of Table 7-2. -/
def Obligations.LinkFramesRoundTrip : Prop :=
  (∀ (p : PortId) (c : Instr) (bytes : List Byte), c.wf = true → agentFrame c = some bytes →
    (match c with
      | .openFrame x => x = p
      | .closeFrame x => x = p
      | .request x _ _ _ _ _ => x = p
      | _ => False) → linkFrame p bytes = c) ∧
  (∀ (p : PortId) (body : List Byte) (check : Byte), check ≠ crc8 body → linkFrame p (body ++ [check]) = .badFrame p) ∧
  (∀ (f : Frame), ∃ body, f.bytes = body ++ [crc8 body] ∧
    match f with
    | .response tag result data =>
      body = [0x20, byteOf (tag.val + 16 * result.code), byteOf data.length] ++ data
    | .notice (.resend count) => body = [0x21, 0x1, count]
    | .notice (.protocol tag reason) => body = [0x21, 0x2, byteOf (tag.val + 16 * reason.code)]
    | .notice .openAck => body = [0x21, 0x3, 0]
    | .notice .openNak => body = [0x21, 0x4, 0]
    | .notice .close => body = [0x21, 0x5, 0]) ∧
  RespResult.ok.code = 0x0 ∧ RespResult.blocked.code = 0x1 ∧ RespResult.memfail.code = 0x2 ∧
  ProtocolReason.tagInUse.code = 0x1 ∧ ProtocolReason.badSize.code = 0x2 ∧ ProtocolReason.unaligned.code = 0x3 ∧
  ProtocolReason.badKind.code = 0x4 ∧ ProtocolReason.notOpen.code = 0x5

/-- Supervisor command frames (R174, Tables 11-1 and 11-3): the bytes of every command are read back as that command, with
every parameter; a frame of right form is a command whose bytes it is; a frame of wrong form is a bad command frame. -/
def Obligations.CommandFramesRoundTrip : Prop :=
  (∀ (c : Instr) (bytes : List Byte), commandBytes c = some bytes →
    commandFrame bytes = c ∧ commandFormGood bytes = true) ∧
  (∀ bytes : List Byte, commandFormGood bytes = true → commandBytes (commandFrame bytes) = some bytes) ∧
  (∀ bytes : List Byte, commandFormGood bytes = false → commandFrame bytes = .badCommandFrame bytes)

/-! ### Laws that every step keeps -/

/-- Every law below holds right after reset. -/
def Obligations.LawsHoldAtReset : Prop :=
  State.reset.FlightLaw ∧ State.reset.WindowLaw ∧ State.reset.FaultLaw ∧ State.reset.PortLaw ∧
    State.reset.lockUnit.Law ∧ State.reset.GuardLaw

/-- R138 and R129: the flight table holds at most 16 entries, and each port's counts are its entries; the arbiter's
fore-grant count and K stay in range (Table 8-2). -/
def Obligations.FlightLawKept : Prop :=
  ∀ s t : State, s.FlightLaw → step s = .next t → t.FlightLaw

/-- R92, R88 and R86: ranges of ENABLED windows never overlap, an ENABLED GUARD window names a defined lock, and ranges stay
in the address space. -/
def Obligations.WindowLawKept : Prop :=
  ∀ s t : State, s.WindowLaw → step s = .next t → t.WindowLaw

/-- R165 and R171: the log never holds more than 16 records, and ALERT# is asserted exactly while some class is both
pending and enabled. -/
def Obligations.FaultLawKept : Prop :=
  ∀ s t : State, s.FaultLaw → step s = .next t → t.FaultLaw

/-- R133, R122, R119: at most 8 NOTICEs wait at a port, its consecutive-bad count stays below 8, a disabled port is not
ONLINE, only an ONLINE port has requests, and a claim is due only in RESETTING. R126: outstanding tags are exactly those of the
unanswered requests, each in one place, so that every queued request and every unsent RESPONSE has its tag outstanding and at
most 16 RESPONSEs wait. R120, R148, R153: at OFFLINE nothing is outstanding, both flight counts are 0, and the port has no hold
entry and no pending wait; outside ONLINE its flight-table entries are detached. The lock unit's law and the flight law are
premises (both kept by every step, as their own statements say); what an ended session's operation may still be is the model's
reading (log entry 7). -/
def Obligations.PortLawKept : Prop :=
  ∀ s t : State, s.lockUnit.Law → s.FlightLaw → s.PortLaw → step s = .next t → t.PortLaw

/-- R2, R28, R29, R49, R51, R53, R68: the lock unit agrees with itself: holder sets and lock states, live entries and
holders, waiter records and pending waits, eight places. -/
def Obligations.LockLawKept : Prop :=
  ∀ s t : State, s.lockUnit.Law → step s = .next t → t.lockUnit.Law

/-- R108 and R109: each lock's guard-flight count is the number of its counted writes still in the flight table; with the
lock unit's law it is above 0 only in EXCLUSIVE, DRAINING and BROKEN. -/
def Obligations.GuardLawKept : Prop :=
  ∀ s t : State, s.lockUnit.Law → s.GuardLaw → step s = .next t → t.GuardLaw

end
end

