-- ==== Sys2Proof/Laws/State.lean ====
section
/-! SUPPORT. One lemma for each field of each update of the state: what a read gives after a write. -/

namespace Sys2Proof.Machine

/-! ### Records of the lock unit -/

@[simp] theorem LockUnit.lock_setLock_self (u : LockUnit) (l : LockId) (r : LockRecord) : (u.setLock l r).lock l = r := by
  simp [LockUnit.lock, LockUnit.setLock]

theorem LockUnit.lock_setLock (u : LockUnit) (l k : LockId) (r : LockRecord) :
    (u.setLock l r).lock k = if k = l then r else u.lock k := by
  by_cases h : k = l
  · subst h; simp
  · have h' : (l : Nat) ≠ k := fun e => h (Fin.ext e.symm)
    simp [LockUnit.lock, LockUnit.setLock, h, h']

@[simp] theorem LockUnit.lock_setLock_ne (u : LockUnit) {l k : LockId} (r : LockRecord) (h : k ≠ l) :
    (u.setLock l r).lock k = u.lock k := by
  simp [LockUnit.lock_setLock, h]

@[simp] theorem LockUnit.held_setLock (u : LockUnit) (l : LockId) (r : LockRecord) (p : PortId) :
    (u.setLock l r).held p = u.held p := rfl

@[simp] theorem LockUnit.wait_setLock (u : LockUnit) (l : LockId) (r : LockRecord) (p : PortId) :
    (u.setLock l r).wait p = u.wait p := rfl

@[simp] theorem LockUnit.entry_setLock (u : LockUnit) (l k : LockId) (r : LockRecord) (p : PortId) :
    (u.setLock l r).entry p k = u.entry p k := rfl

@[simp] theorem LockUnit.setLock_setLock (u : LockUnit) (l : LockId) (r r' : LockRecord) :
    (u.setLock l r).setLock l r' = u.setLock l r' := by
  simp [LockUnit.setLock]

@[simp] theorem LockUnit.setLock_lock (u : LockUnit) (l : LockId) : u.setLock l (u.lock l) = u := by
  simp [LockUnit.setLock, LockUnit.lock]

@[simp] theorem LockUnit.lock_setHeld (u : LockUnit) (p : PortId) (es : List HoldEntry) (l : LockId) :
    (u.setHeld p es).lock l = u.lock l := rfl

@[simp] theorem LockUnit.held_setHeld_self (u : LockUnit) (p : PortId) (es : List HoldEntry) :
    (u.setHeld p es).held p = es := by
  simp [LockUnit.held, LockUnit.setHeld]

theorem LockUnit.held_setHeld (u : LockUnit) (p q : PortId) (es : List HoldEntry) :
    (u.setHeld p es).held q = if q = p then es else u.held q := by
  by_cases h : q = p
  · subst h; simp
  · have h' : (p : Nat) ≠ q := fun e => h (Fin.ext e.symm)
    simp [LockUnit.held, LockUnit.setHeld, h, h']

@[simp] theorem LockUnit.held_setHeld_ne (u : LockUnit) {p q : PortId} (es : List HoldEntry) (h : q ≠ p) :
    (u.setHeld p es).held q = u.held q := by
  simp [LockUnit.held_setHeld, h]

@[simp] theorem LockUnit.wait_setHeld (u : LockUnit) (p q : PortId) (es : List HoldEntry) :
    (u.setHeld p es).wait q = u.wait q := rfl

@[simp] theorem LockUnit.lock_setWait (u : LockUnit) (p : PortId) (w : Option LockId) (l : LockId) :
    (u.setWait p w).lock l = u.lock l := rfl

@[simp] theorem LockUnit.held_setWait (u : LockUnit) (p q : PortId) (w : Option LockId) :
    (u.setWait p w).held q = u.held q := rfl

@[simp] theorem LockUnit.entry_setWait (u : LockUnit) (p q : PortId) (w : Option LockId) (l : LockId) :
    (u.setWait p w).entry q l = u.entry q l := rfl

@[simp] theorem LockUnit.wait_setWait_self (u : LockUnit) (p : PortId) (w : Option LockId) :
    (u.setWait p w).wait p = w := by
  simp [LockUnit.wait, LockUnit.setWait]

theorem LockUnit.wait_setWait (u : LockUnit) (p q : PortId) (w : Option LockId) :
    (u.setWait p w).wait q = if q = p then w else u.wait q := by
  by_cases h : q = p
  · subst h; simp
  · have h' : (p : Nat) ≠ q := fun e => h (Fin.ext e.symm)
    simp [LockUnit.wait, LockUnit.setWait, h, h']

@[simp] theorem LockUnit.wait_setWait_ne (u : LockUnit) {p q : PortId} (w : Option LockId) (h : q ≠ p) :
    (u.setWait p w).wait q = u.wait q := by
  simp [LockUnit.wait_setWait, h]

theorem LockUnit.setHeld_setLock (u : LockUnit) (p : PortId) (es : List HoldEntry) (l : LockId) (r : LockRecord) :
    (u.setHeld p es).setLock l r = (u.setLock l r).setHeld p es := rfl

theorem LockUnit.setWait_setLock (u : LockUnit) (p : PortId) (w : Option LockId) (l : LockId) (r : LockRecord) :
    (u.setWait p w).setLock l r = (u.setLock l r).setWait p w := rfl

theorem LockUnit.setWait_setHeld (u : LockUnit) (p q : PortId) (w : Option LockId) (es : List HoldEntry) :
    (u.setWait p w).setHeld q es = (u.setHeld q es).setWait p w := rfl

/-! ### Ports -/

@[simp] theorem State.port_setPort_self (s : State) (p : PortId) (r : PortRecord) : (s.setPort p r).port p = r := by
  simp [State.port, State.setPort]

theorem State.port_setPort (s : State) (p q : PortId) (r : PortRecord) :
    (s.setPort p r).port q = if q = p then r else s.port q := by
  by_cases h : q = p
  · subst h; simp
  · have h' : (p : Nat) ≠ q := fun e => h (Fin.ext e.symm)
    simp [State.port, State.setPort, h, h']

@[simp] theorem State.port_setPort_ne (s : State) {p q : PortId} (r : PortRecord) (h : q ≠ p) :
    (s.setPort p r).port q = s.port q := by
  simp [State.port_setPort, h]

@[simp] theorem State.setPort_setPort (s : State) (p : PortId) (r r' : PortRecord) :
    (s.setPort p r).setPort p r' = s.setPort p r' := by
  simp [State.setPort]

@[simp] theorem State.setPort_port (s : State) (p : PortId) : s.setPort p (s.port p) = s := by
  simp [State.setPort, State.port]

@[simp] theorem State.setPort_resetLow (s : State) (p : PortId) (r : PortRecord) :
    (s.setPort p r).resetLow = s.resetLow := rfl
@[simp] theorem State.setPort_lockUnit (s : State) (p : PortId) (r : PortRecord) :
    (s.setPort p r).lockUnit = s.lockUnit := rfl
@[simp] theorem State.setPort_clock (s : State) (p : PortId) (r : PortRecord) : (s.setPort p r).clock = s.clock := rfl
@[simp] theorem State.setPort_windows (s : State) (p : PortId) (r : PortRecord) :
    (s.setPort p r).windows = s.windows := rfl
@[simp] theorem State.setPort_window (s : State) (p : PortId) (r : PortRecord) (w : WindowId) :
    (s.setPort p r).window w = s.window w := rfl
@[simp] theorem State.setPort_arbiter (s : State) (p : PortId) (r : PortRecord) :
    (s.setPort p r).arbiter = s.arbiter := rfl
@[simp] theorem State.setPort_memPort (s : State) (p : PortId) (r : PortRecord) :
    (s.setPort p r).memPort = s.memPort := rfl
@[simp] theorem State.setPort_reports (s : State) (p : PortId) (r : PortRecord) :
    (s.setPort p r).reports = s.reports := rfl
@[simp] theorem State.setPort_faultUnit (s : State) (p : PortId) (r : PortRecord) :
    (s.setPort p r).faultUnit = s.faultUnit := rfl
@[simp] theorem State.setPort_supervisor (s : State) (p : PortId) (r : PortRecord) :
    (s.setPort p r).supervisor = s.supervisor := rfl
@[simp] theorem State.setPort_draws (s : State) (p : PortId) (r : PortRecord) : (s.setPort p r).draws = s.draws := rfl
@[simp] theorem State.setPort_pending (s : State) (p : PortId) (r : PortRecord) :
    (s.setPort p r).pending = s.pending := rfl

/-! ### Windows -/

@[simp] theorem State.window_setWindow_self (s : State) (w : WindowId) (r : WindowRecord) :
    (s.setWindow w r).window w = r := by
  simp [State.window, State.setWindow]

theorem State.window_setWindow (s : State) (w v : WindowId) (r : WindowRecord) :
    (s.setWindow w r).window v = if v = w then r else s.window v := by
  by_cases h : v = w
  · subst h; simp
  · have h' : (w : Nat) ≠ v := fun e => h (Fin.ext e.symm)
    simp [State.window, State.setWindow, h, h']

@[simp] theorem State.setWindow_resetLow (s : State) (w : WindowId) (r : WindowRecord) :
    (s.setWindow w r).resetLow = s.resetLow := rfl
@[simp] theorem State.setWindow_lockUnit (s : State) (w : WindowId) (r : WindowRecord) :
    (s.setWindow w r).lockUnit = s.lockUnit := rfl
@[simp] theorem State.setWindow_clock (s : State) (w : WindowId) (r : WindowRecord) :
    (s.setWindow w r).clock = s.clock := rfl
@[simp] theorem State.setWindow_port (s : State) (w : WindowId) (r : WindowRecord) (p : PortId) :
    (s.setWindow w r).port p = s.port p := rfl
@[simp] theorem State.setWindow_arbiter (s : State) (w : WindowId) (r : WindowRecord) :
    (s.setWindow w r).arbiter = s.arbiter := rfl
@[simp] theorem State.setWindow_memPort (s : State) (w : WindowId) (r : WindowRecord) :
    (s.setWindow w r).memPort = s.memPort := rfl
@[simp] theorem State.setWindow_reports (s : State) (w : WindowId) (r : WindowRecord) :
    (s.setWindow w r).reports = s.reports := rfl
@[simp] theorem State.setWindow_faultUnit (s : State) (w : WindowId) (r : WindowRecord) :
    (s.setWindow w r).faultUnit = s.faultUnit := rfl
@[simp] theorem State.setWindow_supervisor (s : State) (w : WindowId) (r : WindowRecord) :
    (s.setWindow w r).supervisor = s.supervisor := rfl
@[simp] theorem State.setWindow_pending (s : State) (w : WindowId) (r : WindowRecord) :
    (s.setWindow w r).pending = s.pending := rfl

/-! ### The lock unit as a whole -/

@[simp] theorem State.setUnit_lockUnit (s : State) (u : LockUnit) : (s.setUnit u).lockUnit = u := rfl
@[simp] theorem State.setUnit_self (s : State) : s.setUnit s.lockUnit = s := rfl
@[simp] theorem State.setUnit_resetLow (s : State) (u : LockUnit) : (s.setUnit u).resetLow = s.resetLow := rfl
@[simp] theorem State.setUnit_clock (s : State) (u : LockUnit) : (s.setUnit u).clock = s.clock := rfl
@[simp] theorem State.setUnit_windows (s : State) (u : LockUnit) : (s.setUnit u).windows = s.windows := rfl
@[simp] theorem State.setUnit_window (s : State) (u : LockUnit) (w : WindowId) :
    (s.setUnit u).window w = s.window w := rfl
@[simp] theorem State.setUnit_port (s : State) (u : LockUnit) (p : PortId) : (s.setUnit u).port p = s.port p := rfl
@[simp] theorem State.setUnit_arbiter (s : State) (u : LockUnit) : (s.setUnit u).arbiter = s.arbiter := rfl
@[simp] theorem State.setUnit_memPort (s : State) (u : LockUnit) : (s.setUnit u).memPort = s.memPort := rfl
@[simp] theorem State.setUnit_reports (s : State) (u : LockUnit) : (s.setUnit u).reports = s.reports := rfl
@[simp] theorem State.setUnit_faultUnit (s : State) (u : LockUnit) : (s.setUnit u).faultUnit = s.faultUnit := rfl
@[simp] theorem State.setUnit_supervisor (s : State) (u : LockUnit) : (s.setUnit u).supervisor = s.supervisor := rfl
@[simp] theorem State.setUnit_draws (s : State) (u : LockUnit) : (s.setUnit u).draws = s.draws := rfl
@[simp] theorem State.setUnit_pending (s : State) (u : LockUnit) : (s.setUnit u).pending = s.pending := rfl

/-! ### Reports -/

@[simp] theorem State.report_nil (s : State) (src : FaultSource) : s.report src [] = s := rfl

theorem State.report_eq (s : State) (src : FaultSource) (fs : List FaultInfo) :
    s.report src fs = { s with reports := s.reports ++ if fs = [] then [] else [{ source := src, faults := fs }] } := by
  by_cases h : fs = [] <;> simp [State.report, h]

@[simp] theorem State.report_resetLow (s : State) (src : FaultSource) (fs : List FaultInfo) :
    (s.report src fs).resetLow = s.resetLow := by simp [State.report_eq]
@[simp] theorem State.report_lockUnit (s : State) (src : FaultSource) (fs : List FaultInfo) :
    (s.report src fs).lockUnit = s.lockUnit := by simp [State.report_eq]
@[simp] theorem State.report_clock (s : State) (src : FaultSource) (fs : List FaultInfo) :
    (s.report src fs).clock = s.clock := by simp [State.report_eq]
@[simp] theorem State.report_windows (s : State) (src : FaultSource) (fs : List FaultInfo) :
    (s.report src fs).windows = s.windows := by simp [State.report_eq]
@[simp] theorem State.report_ports (s : State) (src : FaultSource) (fs : List FaultInfo) :
    (s.report src fs).ports = s.ports := by simp [State.report_eq]
@[simp] theorem State.report_port (s : State) (src : FaultSource) (fs : List FaultInfo) (p : PortId) :
    (s.report src fs).port p = s.port p := by simp [State.port]
@[simp] theorem State.report_arbiter (s : State) (src : FaultSource) (fs : List FaultInfo) :
    (s.report src fs).arbiter = s.arbiter := by simp [State.report_eq]
@[simp] theorem State.report_memPort (s : State) (src : FaultSource) (fs : List FaultInfo) :
    (s.report src fs).memPort = s.memPort := by simp [State.report_eq]
@[simp] theorem State.report_faultUnit (s : State) (src : FaultSource) (fs : List FaultInfo) :
    (s.report src fs).faultUnit = s.faultUnit := by simp [State.report_eq]
@[simp] theorem State.report_supervisor (s : State) (src : FaultSource) (fs : List FaultInfo) :
    (s.report src fs).supervisor = s.supervisor := by simp [State.report_eq]
@[simp] theorem State.report_draws (s : State) (src : FaultSource) (fs : List FaultInfo) :
    (s.report src fs).draws = s.draws := by simp [State.report_eq]
@[simp] theorem State.report_pending (s : State) (src : FaultSource) (fs : List FaultInfo) :
    (s.report src fs).pending = s.pending := by simp [State.report_eq]

@[simp] theorem State.takeReport_reports (s : State) (r : Report) (ks : List Report) :
    (s.takeReport r ks).reports = ks := rfl
@[simp] theorem State.takeReport_resetLow (s : State) (r : Report) (ks : List Report) :
    (s.takeReport r ks).resetLow = s.resetLow := rfl
@[simp] theorem State.takeReport_lockUnit (s : State) (r : Report) (ks : List Report) :
    (s.takeReport r ks).lockUnit = s.lockUnit := rfl
@[simp] theorem State.takeReport_clock (s : State) (r : Report) (ks : List Report) :
    (s.takeReport r ks).clock = s.clock := rfl
@[simp] theorem State.takeReport_arbiter (s : State) (r : Report) (ks : List Report) :
    (s.takeReport r ks).arbiter = s.arbiter := rfl
@[simp] theorem State.takeReport_memPort (s : State) (r : Report) (ks : List Report) :
    (s.takeReport r ks).memPort = s.memPort := rfl
@[simp] theorem State.takeReport_supervisor (s : State) (r : Report) (ks : List Report) :
    (s.takeReport r ks).supervisor = s.supervisor := rfl
@[simp] theorem State.takeReport_pending (s : State) (r : Report) (ks : List Report) :
    (s.takeReport r ks).pending = s.pending := rfl
@[simp] theorem State.takeReport_window (s : State) (r : Report) (ks : List Report) (w : WindowId) :
    (s.takeReport r ks).window w = s.window w := rfl
@[simp] theorem State.takeReport_port (s : State) (r : Report) (ks : List Report) (p : PortId) :
    (s.takeReport r ks).port p = s.port p := rfl
@[simp] theorem State.takeReport_faultUnit (s : State) (r : Report) (ks : List Report) :
    (s.takeReport r ks).faultUnit = s.faultUnit.take s.clock.counter r.faults := rfl
@[simp] theorem State.takeReport_draws (s : State) (r : Report) (ks : List Report) :
    (s.takeReport r ks).draws = s.draws := rfl

/-! ### The supervisor port -/

@[simp] theorem State.finish_resetLow (s : State) (st : Status) (d : List Byte) :
    (s.finish st d).resetLow = s.resetLow := rfl
@[simp] theorem State.finish_lockUnit (s : State) (st : Status) (d : List Byte) :
    (s.finish st d).lockUnit = s.lockUnit := rfl
@[simp] theorem State.finish_port (s : State) (st : Status) (d : List Byte) (p : PortId) :
    (s.finish st d).port p = s.port p := rfl
@[simp] theorem State.finish_window (s : State) (st : Status) (d : List Byte) (w : WindowId) :
    (s.finish st d).window w = s.window w := rfl
@[simp] theorem State.finish_arbiter (s : State) (st : Status) (d : List Byte) :
    (s.finish st d).arbiter = s.arbiter := rfl
@[simp] theorem State.finish_memPort (s : State) (st : Status) (d : List Byte) :
    (s.finish st d).memPort = s.memPort := rfl
@[simp] theorem State.finish_reports (s : State) (st : Status) (d : List Byte) :
    (s.finish st d).reports = s.reports := rfl
@[simp] theorem State.finish_faultUnit (s : State) (st : Status) (d : List Byte) :
    (s.finish st d).faultUnit = s.faultUnit := rfl
@[simp] theorem State.finish_pending (s : State) (st : Status) (d : List Byte) :
    (s.finish st d).pending = s.pending := rfl
@[simp] theorem State.finish_clock (s : State) (st : Status) (d : List Byte) : (s.finish st d).clock = s.clock := rfl
@[simp] theorem State.acknowledge_resetLow (s : State) (b : Bool) : (s.acknowledge b).resetLow = s.resetLow := rfl
@[simp] theorem State.acknowledge_lockUnit (s : State) (b : Bool) : (s.acknowledge b).lockUnit = s.lockUnit := rfl
@[simp] theorem State.acknowledge_clock (s : State) (b : Bool) : (s.acknowledge b).clock = s.clock := rfl
@[simp] theorem State.acknowledge_port (s : State) (b : Bool) (p : PortId) :
    (s.acknowledge b).port p = s.port p := rfl
@[simp] theorem State.acknowledge_window (s : State) (b : Bool) (w : WindowId) :
    (s.acknowledge b).window w = s.window w := rfl
@[simp] theorem State.acknowledge_arbiter (s : State) (b : Bool) : (s.acknowledge b).arbiter = s.arbiter := rfl
@[simp] theorem State.acknowledge_memPort (s : State) (b : Bool) : (s.acknowledge b).memPort = s.memPort := rfl
@[simp] theorem State.acknowledge_reports (s : State) (b : Bool) : (s.acknowledge b).reports = s.reports := rfl
@[simp] theorem State.acknowledge_faultUnit (s : State) (b : Bool) : (s.acknowledge b).faultUnit = s.faultUnit := rfl
@[simp] theorem State.acknowledge_pending (s : State) (b : Bool) : (s.acknowledge b).pending = s.pending := rfl

/-! ### Updates of other fields -/

/-- Ports are read through an update of other fields. -/
@[simp] theorem State.port_mk (a : Bool) (b : LockUnit) (c : LockClock) (d : Vector WindowRecord 16) (s : State)
    (e : Arbiter) (f : MemPort) (g : List Report) (h : FaultUnit) (i : Supervisor) (j : Nat) (k : List Instr)
    (p : PortId) : State.port ⟨a, b, c, d, s.ports, e, f, g, h, i, j, k⟩ p = s.port p := rfl

/-- Windows are read through an update of other fields. -/
@[simp] theorem State.window_mk (a : Bool) (b : LockUnit) (c : LockClock) (d : Vector PortRecord 6) (s : State)
    (e : Arbiter) (f : MemPort) (g : List Report) (h : FaultUnit) (i : Supervisor) (j : Nat) (k : List Instr)
    (w : WindowId) : State.window ⟨a, b, c, s.windows, d, e, f, g, h, i, j, k⟩ w = s.window w := rfl

/-- A port is written through an update of other fields. -/
@[simp] theorem State.setPort_mk (a : Bool) (b : LockUnit) (c : LockClock) (d : Vector WindowRecord 16) (s : State)
    (e : Arbiter) (f : MemPort) (g : List Report) (h : FaultUnit) (i : Supervisor) (j : Nat) (k : List Instr)
    (p : PortId) (r : PortRecord) : State.setPort ⟨a, b, c, d, s.ports, e, f, g, h, i, j, k⟩ p r =
      ⟨a, b, c, d, (s.setPort p r).ports, e, f, g, h, i, j, k⟩ := rfl

end Sys2Proof.Machine
end

