-- ==== Sys2Proof/Laws/Classify.lean ====
section
/-! SUPPORT. Which window decodes an address, what a port's hold entry says in the guard check, and what head handling leaves. -/

namespace Sys2Proof.Machine

theorem WindowDef.holdsPage_iff (d : WindowDef) (page : Nat) :
    d.holdsPage page = true ↔ d.base ≤ page ∧ page < d.base + d.pages := by
  simp [WindowDef.holdsPage]

theorem WindowDef.holdsPage_pageOf (d : WindowDef) (a : Word) :
    d.holdsPage (pageOf a) = true ↔ 4096 * d.base ≤ a.toNat ∧ a.toNat < 4096 * (d.base + d.pages) := by
  rw [WindowDef.holdsPage_iff, show pageOf a = a.toNat / 4096 from rfl]
  omega

/-- A window decodes an address when it is ENABLED and its range holds the address's page (R86, R88). -/
theorem WindowRecord.decodes_eq_some (r : WindowRecord) (a : Word) (d : WindowDef) :
    r.decodes a = some d ↔ r = .enabled d ∧ 4096 * d.base ≤ a.toNat ∧ a.toNat < 4096 * (d.base + d.pages) := by
  cases r with
  | undefined => simp [WindowRecord.decodes]
  | defined e => simp [WindowRecord.decodes]
  | enabled e =>
    rw [← WindowDef.holdsPage_pageOf, WindowRecord.decodes]
    by_cases h : e.holdsPage (pageOf a) = true
    · rw [if_pos h]
      simp only [Option.some.injEq, WindowRecord.enabled.injEq]
      exact ⟨fun he => ⟨he, he ▸ h⟩, fun he => he.1⟩
    · rw [if_neg h]
      simp only [reduceCtorEq, WindowRecord.enabled.injEq, false_iff, not_and]
      exact fun he => he ▸ h

/-- No ENABLED window holds the address (R96). -/
theorem State.findWindow_eq_none (s : State) (a : Word)
    (h : ∀ w d, s.window w = .enabled d → a.toNat < 4096 * d.base ∨ 4096 * (d.base + d.pages) ≤ a.toNat) :
    s.findWindow a = none := by
  rw [State.findWindow, List.findSome?_eq_none_iff]
  intro w _
  cases hx : (s.window w).decodes a with
  | none => rfl
  | some d =>
    rw [WindowRecord.decodes_eq_some] at hx
    have := h w d hx.1
    omega

/-- The one ENABLED window that holds the address (R92, R96). -/
theorem State.findWindow_eq_some (s : State) (a : Word) (law : s.WindowLaw) {w : WindowId} {d : WindowDef}
    (hw : s.window w = .enabled d) (h1 : 4096 * d.base ≤ a.toNat) (h2 : a.toNat < 4096 * (d.base + d.pages)) :
    s.findWindow a = some (w, d) := by
  have key : ∀ v e, (s.window v).decodes a = some e → v = w ∧ e = d := by
    intro v e hv
    rw [WindowRecord.decodes_eq_some] at hv
    by_cases hvw : v = w
    · subst hvw
      have h := hv.1
      rw [hw] at h
      exact ⟨rfl, (WindowRecord.enabled.inj h).symm⟩
    · have := law.1 v w e d hvw hv.1 hw
      omega
  rw [State.findWindow]
  cases hf : (List.finRange 16).findSome? (fun w => ((s.window w).decodes a).map (fun d => (w, d))) with
  | none =>
    rw [List.findSome?_eq_none_iff] at hf
    have h := hf w (List.mem_finRange w)
    rw [(WindowRecord.decodes_eq_some _ _ d).2 ⟨hw, h1, h2⟩] at h
    cases h
  | some x =>
    obtain ⟨v, _, hv⟩ := List.exists_of_findSome?_eq_some hf
    cases hd : (s.window v).decodes a with
    | none => simp [hd] at hv
    | some e =>
      obtain ⟨rfl, rfl⟩ := key v e hd
      simpa [hd, eq_comm] using hv

theorem LockUnit.holdsExclusive_iff (u : LockUnit) (p : PortId) (l : LockId) :
    u.holdsExclusive p l = true ↔ ∃ e, u.entry p l = some e ∧ e.revoked = false ∧ e.mode = .exclusive := by
  simp only [LockUnit.holdsExclusive]
  cases u.entry p l <;> simp

theorem LockUnit.holdsLive_iff (u : LockUnit) (p : PortId) (l : LockId) :
    u.holdsLive p l = true ↔ ∃ e, u.entry p l = some e ∧ e.revoked = false := by
  simp only [LockUnit.holdsLive]
  cases u.entry p l <;> simp

/-- An entry found for a lock is an entry of that lock. -/
theorem LockUnit.entry_lock {u : LockUnit} {p : PortId} {l : LockId} {e : HoldEntry} (h : u.entry p l = some e) :
    e.lock = l ∧ e ∈ u.held p := by
  have h1 := List.find?_some h
  exact ⟨by simpa using h1, List.mem_of_find?_eq_some h⟩

/-- A port's head may be classified when none waits and no operation of the port is at the lock unit (R128). -/
theorem PortRecord.mayClassify_iff (r : PortRecord) : r.mayClassify = true ↔ r.headClass = none ∧ r.handed = none := by
  simp [PortRecord.mayClassify]

/-- Classification does not read ports. -/
theorem State.runHeads_setPort (s : State) (p q : PortId) (r : PortRecord) (n : Nat) (queue : List Request) :
    (s.setPort q r).runHeads p n queue = s.runHeads p n queue := by
  induction queue with
  | nil => rfl
  | cons x xs ih =>
    simp only [State.runHeads]
    rw [ih]
    rfl

/-! ### What head handling leaves -/

/-- A head classified for the lock unit is handed on under its own tag (R128). -/
theorem State.classify_tag (s : State) (p : PortId) (q : Request) (op : LockOp)
    (h : s.classify p q = .lockOp op ∨ s.classify p q = .misuse op) : op.tag = q.tag := by
  rw [State.classify] at h
  split at h
  · simp at h
  · split at h
    · simp at h
    · rw [classifySlot] at h
      split at h
      · simp at h
      · dsimp only at h
        split at h
        · simp only [reduceCtorEq, Classification.misuse.injEq, false_or] at h
          rw [← h]
        · simp only [reduceCtorEq, Classification.lockOp.injEq, or_false] at h
          rw [← h]
    · split at h
      · simp only [LockUnit.guardWrite] at h
        split at h
        · simp at h
        · split at h <;> simp at h
      · simp only [LockUnit.guardRead] at h
        split at h
        · simp at h
        · split at h <;> simp at h
        · split at h <;> simp at h

/-- Each request of the queue has its tag in one place after head handling: a RESPONSE, the operation handed on, or the queue
(R126). -/
theorem State.runHeads_tags (s : State) (p : PortId) (n : Nat) (queue : List Request) :
    (s.runHeads p n queue).frames.filterMap Frame.responseTag ++
      ((s.runHeads p n queue).handed.toList.map LockOp.tag ++ (s.runHeads p n queue).queue.map Request.tag) =
        queue.map Request.tag := by
  induction queue with
  | nil => rfl
  | cons q qs ih =>
    rw [State.runHeads]
    split
    · rfl
    · rfl
    · rfl
    · simpa [blockedResponse, Frame.responseTag] using ih
    · rename_i op h
      split
      · rfl
      · simp [handedHead, State.classify_tag s p q op (.inl h)]
    · rename_i op h
      simp [handedHead, State.classify_tag s p q op (.inr h)]

/-- A head that waits stands in the queue with nothing handed on, and one held at the release fence keeps its tag (R97,
R127). -/
theorem State.runHeads_waiting (s : State) (p : PortId) (n : Nat) (queue : List Request) :
    ((s.runHeads p n queue).headClass ≠ none → (s.runHeads p n queue).queue ≠ [] ∧ (s.runHeads p n queue).handed = none) ∧
      ∀ op, (s.runHeads p n queue).headClass = some (.heldRelease op) →
        (s.runHeads p n queue).queue.head?.map Request.tag = some op.tag := by
  induction queue with
  | nil => exact ⟨fun h => absurd rfl h, fun _ h => by cases h⟩
  | cons q qs ih =>
    rw [State.runHeads]
    split
    · exact ⟨fun _ => ⟨by simp [waitingHead], rfl⟩, fun _ h => by simp [waitingHead] at h⟩
    · exact ⟨fun _ => ⟨by simp [waitingHead], rfl⟩, fun _ h => by simp [waitingHead] at h⟩
    · exact ⟨fun _ => ⟨by simp [waitingHead], rfl⟩, fun _ h => by simp [waitingHead] at h⟩
    · exact ih
    · rename_i op h
      split
      · refine ⟨fun _ => ⟨by simp [waitingHead], rfl⟩, fun op' h' => ?_⟩
        simp only [waitingHead, Option.some.injEq, HeadClass.heldRelease.injEq] at h'
        rw [← h']
        simp [waitingHead, State.classify_tag s p q op (.inl h)]
      · exact ⟨fun h => absurd rfl h, fun _ h => by cases h⟩
    · exact ⟨fun h => absurd rfl h, fun _ h => by cases h⟩

/-- Head handling forms RESPONSEs only (R127). -/
theorem State.runHeads_frames (s : State) (p : PortId) (n : Nat) (queue : List Request) :
    ∀ f ∈ (s.runHeads p n queue).frames, f.isNotice = false := by
  induction queue with
  | nil => intro f hf; cases hf
  | cons q qs ih =>
    rw [State.runHeads]
    split
    · intro f hf; cases hf
    · intro f hf; cases hf
    · intro f hf; cases hf
    · intro f hf
      rcases List.mem_cons.1 hf with rfl | h
      · rfl
      · exact ih f h
    · split
      · intro f hf; cases hf
      · intro f hf; cases hf
    · intro f hf; cases hf

end Sys2Proof.Machine
end

