-- ==== Sys2Proof/Laws/Events.lean ====
section
/-! SUPPORT. What the shared steps of an event do, once: words handed to ports, an event at the lock unit, frames formed in
one event, head handling, and an operation taken at the lock unit. Cite these instead of unfolding. -/

namespace Sys2Proof.Machine

/-! ### Words handed to ports -/

theorem PortRecord.responsesTo_congr {r r' : PortRecord} (h : r'.outstanding = r.outstanding) (as : List Answer) :
    r'.responsesTo as = r.responsesTo as := by
  simp [PortRecord.responsesTo, PortRecord.hasTag, h]

/-- The words of an operation of an ended session are discarded (R126, R153). -/
theorem PortRecord.ownResponses_of_stale {r : PortRecord} (h : r.stale = true) (as : List Answer) :
    r.ownResponses as = [] := by
  simp [PortRecord.ownResponses, h]

theorem PortRecord.ownResponses_of_live {r : PortRecord} (h : r.stale = false) (as : List Answer) :
    r.ownResponses as = r.responsesTo as := by
  simp [PortRecord.ownResponses, h]

theorem PortRecord.mem_responsesTo (r : PortRecord) (as : List Answer) (a : Answer) (ha : a ∈ as) :
    wordResponse a.tag a.word ∈ r.responsesTo as ↔ r.hasTag a.tag = true := by
  constructor
  · intro h
    simp only [PortRecord.responsesTo, List.mem_map, List.mem_filter, wordResponse] at h
    obtain ⟨b, ⟨_, hb⟩, e⟩ := h
    simp only [Frame.response.injEq] at e
    rw [← e.1]; exact hb
  · intro h
    simp only [PortRecord.responsesTo, List.mem_map, List.mem_filter]
    exact ⟨a, ⟨ha, h⟩, rfl⟩

/-- Delivered words only extend send lists: each port gets the words that are its own and whose tag is outstanding. -/
theorem State.deliver_port (as : List Answer) : ∀ (s : State) (q : PortId), (s.deliver as).port q =
    { s.port q with
      sendList := (s.port q).sendList ++ (s.port q).responsesTo (as.filter (fun a => a.port == q)) } := by
  induction as with
  | nil => intro s q; simp [State.deliver, PortRecord.responsesTo]
  | cons a as ih =>
    intro s q
    have hstep : s.deliver (a :: as) = (s.deliverOne a).deliver as := rfl
    rw [hstep, ih]
    by_cases h : q = a.port
    · subst h
      simp only [State.deliverOne, State.port_setPort_self]
      simp [PortRecord.responsesTo, PortRecord.hasTag, List.filter_cons]
      split <;> simp
    · have h' : ¬ a.port = q := fun e => h e.symm
      simp [State.deliverOne, h, h']

/-- Delivering changes nothing but ports. -/
theorem State.deliver_eq (as : List Answer) : ∀ s : State, s.deliver as = { s with ports := (s.deliver as).ports } := by
  induction as with
  | nil => intro s; rfl
  | cons a as ih =>
    intro s
    have hstep : s.deliver (a :: as) = (s.deliverOne a).deliver as := rfl
    rw [hstep, ih (s.deliverOne a)]
    rfl

/-! ### Events at the lock unit -/

theorem State.applyLock_eq (s : State) (e : LockEffect) : s.applyLock e =
    { s with
      lockUnit := e.unit
      ports := (s.deliver e.answers).ports
      reports := s.reports ++ if e.faults = [] then [] else [{ source := .lockUnit, faults := e.faults }] } := by
  have hports : ((s.setUnit e.unit).deliver e.answers).ports = (s.deliver e.answers).ports := by
    apply Vector.ext
    intro i hi
    have h1 := State.deliver_port e.answers (s.setUnit e.unit) ⟨i, hi⟩
    have h2 := State.deliver_port e.answers s ⟨i, hi⟩
    simp only [State.setUnit_port] at h1
    rw [← h2] at h1
    exact h1
  rw [State.applyLock, State.report_eq, State.deliver_eq, hports]
  rfl

theorem State.applyLock_port (s : State) (e : LockEffect) (q : PortId) : (s.applyLock e).port q =
    { s.port q with
      sendList := (s.port q).sendList ++ (s.port q).responsesTo (e.answers.filter (fun a => a.port == q)) } := by
  rw [State.applyLock_eq]
  exact State.deliver_port e.answers s q

/-- A report joins the reports of its block and no other's. -/
theorem State.reportsFrom_report (s : State) (src src' : FaultSource) (fs : List FaultInfo) :
    (s.report src fs).reportsFrom src' = s.reportsFrom src' ++ if src' = src then asReport src' fs else [] := by
  rw [State.report_eq]
  simp only [State.reportsFrom, List.filter_append]
  congr 1
  by_cases h : fs = [] <;> by_cases h' : src' = src
  · simp [h, h', asReport]
  · simp [h, h']
  · simp [h, h', asReport, Report.isFrom]
  · have h'' : ¬src = src' := fun e => h' e.symm
    simp [h, h', h'', Report.isFrom]

theorem State.responsesTo_eq (s : State) (q : PortId) (as : List Answer) :
    (s.port q).responsesTo (as.filter (fun a => a.port == q)) = s.wordsTo q as := by
  simp only [PortRecord.responsesTo, State.wordsTo, List.filter_filter, Bool.and_comm]

/-- An event at the lock unit has its effect and touches nothing else. -/
theorem State.applyLock_spec (s : State) (e : LockEffect) :
    LockEvent s (s.applyLock e) e ∧ (s.applyLock e).supervisor = s.supervisor := by
  have h := State.applyLock_eq s e
  refine ⟨⟨by rw [h], fun q => ?_, fun src => ?_, ⟨by rw [h], by rw [h], by rw [h], by rw [h], by rw [h], by rw [h],
    by rw [h]⟩, by rw [h]⟩, by rw [h]⟩
  · rw [State.applyLock_port, State.responsesTo_eq]
  · rw [State.applyLock, State.reportsFrom_report, State.deliver_eq]
    rfl

/-- The supervisor's acknowledge and its answer are no part of an event at the lock unit. -/
theorem LockEvent.of_acknowledge {s t : State} {b : Bool} {e : LockEffect} (h : LockEvent (s.acknowledge b) t e) :
    LockEvent s t e := h

theorem LockEvent.finish {s t : State} {e : LockEffect} (h : LockEvent s t e) (st : Status) (d : List Byte) :
    LockEvent s (t.finish st d) e := h

/-! ### Frames of one event -/

@[simp] theorem State.formFrames_clock (s : State) (p : PortId) (fs : List Frame) :
    (s.formFrames p fs).clock = s.clock := rfl

/-- The free order of frames is an order: the frames that join the send list are the frames formed. -/
theorem arrange_perm (fs : List Frame) : ∀ draw, List.Perm (arrange draw fs).1 fs := by
  induction fs with
  | nil => intro draw; simp [arrange]
  | cons f fs ih =>
    intro draw
    cases fs with
    | nil => simp [arrange]
    | cons g gs =>
      simp only [arrange]
      refine (List.perm_middle).trans ?_
      rw [List.take_append_drop]
      exact (ih draw).cons f

@[simp] theorem arrange_nil (draw : Nat) : arrange draw [] = ([], draw) := rfl
@[simp] theorem arrange_one (draw : Nat) (f : Frame) : arrange draw [f] = ([f], draw) := rfl

/-- What head handling writes: queue, head and operation of the port, the frames in some order, one report. -/
theorem State.advance_writes (s : State) (p : PortId) (own : List Frame) :
    ∃ fs n, List.Perm fs (own ++ (s.headRun p).frames) ∧ s.advance p own =
      { s.setPort p { s.port p with
          queue := (s.headRun p).queue, headClass := (s.headRun p).headClass, handed := (s.headRun p).handed,
          sendList := (s.port p).sendList ++ fs } with
        draws := n
        reports := s.reports ++
          if (s.headRun p).faults = [] then [] else [{ source := .port p, faults := (s.headRun p).faults }] } := by
  refine ⟨(arrange s.draws (own ++ (s.headRun p).frames)).1, (arrange s.draws (own ++ (s.headRun p).frames)).2,
    arrange_perm _ s.draws, ?_⟩
  rw [State.advance, State.report_eq]
  simp only [State.formFrames, State.port_setPort_self, State.setPort_setPort, State.setPort_draws]
  rfl

/-- Classification reads the window map and the lock unit only. -/
theorem State.classify_congr {s s' : State} (hw : s'.windows = s.windows) (hl : s'.lockUnit = s.lockUnit) (p : PortId)
    (q : Request) : s'.classify p q = s.classify p q := by
  cases s
  cases s'
  simp only at hw hl
  subst hw hl
  rfl

theorem State.runHeads_congr {s s' : State} (hw : s'.windows = s.windows) (hl : s'.lockUnit = s.lockUnit) (p : PortId)
    (n : Nat) (queue : List Request) : s'.runHeads p n queue = s.runHeads p n queue := by
  induction queue with
  | nil => rfl
  | cons q qs ih => simp only [State.runHeads, State.classify_congr hw hl, ih]

/-- Head handling reads the window map, the lock unit and its own port only. -/
theorem State.headRun_congr {s s' : State} {p : PortId} (hw : s'.windows = s.windows) (hl : s'.lockUnit = s.lockUnit)
    (hp : s'.port p = s.port p) : s'.headRun p = s.headRun p := by
  simp only [State.headRun, hp, State.runHeads_congr hw hl]

/-! ### An operation taken at the lock unit -/

/-- The operation of port `p` has its effect, its port handles its queue, and nothing else changes. -/
theorem State.finishOp_spec (s : State) (p : PortId) (e : LockEffect) : OpTaken s (s.finishOp p e) p e := by
  let s1 := s.setPort p { s.port p with handed := none, stale := false }
  let e2 : LockEffect := { e with answers := e.answers.filter (fun a => a.port != p) }
  let s2 := s1.applyLock e2
  let own := (s.port p).ownResponses (e.answers.filter (fun a => a.port == p))
  have hs2 : s2 = s1.applyLock e2 := rfl
  have hfin : s.finishOp p e = s2.advance p own := rfl
  obtain ⟨⟨hu, hports, hreps, ⟨h1, h2, h3, h4, h5, h6, h7⟩, h8⟩, h9⟩ := State.applyLock_spec s1 e2
  rw [← hs2] at hu hports hreps h1 h2 h3 h4 h5 h6 h7 h8 h9
  have hp2 : s2.port p = { s.port p with handed := none, stale := false } := by
    rw [hports]
    have hnone : s1.wordsTo p e2.answers = [] := by
      simp only [State.wordsTo, e2, List.filter_filter, List.map_eq_nil_iff, List.filter_eq_nil_iff]
      intro a _
      by_cases h : a.port = p <;> simp [h]
    rw [hnone]
    simp [s1]
  have hq2 : ∀ q, q ≠ p → s2.port q =
      { s.port q with sendList := (s.port q).sendList ++ s.wordsTo q e.answers } := by
    intro q hq
    rw [hports]
    have hsame : s1.wordsTo q e2.answers = s.wordsTo q e.answers := by
      simp only [State.wordsTo, e2, s1, State.port_setPort_ne _ _ hq, List.filter_filter]
      congr 1
      apply List.filter_congr
      intro a _
      by_cases h : a.port = q <;> simp [h, hq]
    rw [hsame]
    simp [s1, hq]
  have hown : own = if (s.port p).stale then [] else s.wordsTo p e.answers := by
    rw [← State.responsesTo_eq]
    rfl
  have hrun : s2.headRun p = ({ s1 with lockUnit := e.unit } : State).headRun p := by
    apply State.headRun_congr
    · exact h3
    · exact hu
    · rw [hp2]
      simp [s1]
  have hadv : s2.advance p own = (((s2.setPort p { s2.port p with
      queue := (s2.headRun p).queue, headClass := (s2.headRun p).headClass, handed := (s2.headRun p).handed }).formFrames
        p (own ++ (s2.headRun p).frames)).report (.port p) (s2.headRun p).faults) := rfl
  obtain ⟨fs, n, hfs, heq⟩ := State.advance_writes s2 p own
  show OpTaken s (s.finishOp p e) p e
  rw [hfin]
  refine ⟨?_, ⟨fs, ?_, ?_⟩, ?_, ?_, ⟨?_, ?_, ?_, ?_, ?_, ?_, ?_⟩, ?_⟩
  case refine_1 => rw [heq]; exact hu
  case refine_2 => rw [hown, hrun] at hfs; exact hfs
  case refine_3 =>
    rw [heq]
    show (s2.setPort p _).port p = _
    rw [State.port_setPort_self, hrun, hp2]
  case refine_4 =>
    intro q hq
    rw [heq]
    show (s2.setPort p _).port q = _
    rw [State.port_setPort_ne _ _ hq, hq2 q hq]
  case refine_5 =>
    intro src
    rw [hadv, State.reportsFrom_report, hrun]
    have hr : (((s2.setPort p { s2.port p with
        queue := (({ s1 with lockUnit := e.unit } : State).headRun p).queue,
        headClass := (({ s1 with lockUnit := e.unit } : State).headRun p).headClass,
        handed := (({ s1 with lockUnit := e.unit } : State).headRun p).handed }).formFrames
        p (own ++ (({ s1 with lockUnit := e.unit } : State).headRun p).frames))).reportsFrom src =
          s.reportsFrom src ++ if src = .lockUnit then asReport src e.faults else [] := hreps src
    rw [hr, List.append_assoc]
    by_cases h : src = .lockUnit
    · subst h; simp
    · simp [h, s1]
  case refine_6 => rw [heq]; exact h1
  case refine_7 => rw [heq]; exact h2
  case refine_8 => rw [heq]; exact h3
  case refine_9 => rw [heq]; exact h4
  case refine_10 => rw [heq]; exact h5
  case refine_11 => rw [heq]; exact h6
  case refine_12 => rw [heq]; exact h7
  case refine_13 => rw [heq]; exact h9

/-- An operation is taken when its port has handed one of its kind on. -/
theorem State.takeOp_of (s : State) (p : PortId) (k : LockOpKind) (f : LockOp → LockEffect) (op : LockOp)
    (h : (s.port p).handed = some op) (hk : op.kind = k) : s.takeOp p k f = s.finishOp p (f op) := by
  simp [State.takeOp, h, hk]

/-! ### When an event or a command is taken -/

/-- With RESET# high an event has its effect. -/
theorem State.running_of_high (s : State) (k : State → State) (h : s.resetLow = false) : s.running k = k s := by
  simp [State.running, h]

/-- With RESET# low it has none (R161). -/
theorem State.running_of_low (s : State) (k : State → State) (h : s.resetLow = true) : s.running k = s := by
  simp [State.running, h]

/-- A command that the supervisor port takes is acknowledged and has its effect (R175). -/
theorem State.command_of_ready (s : State) (k : State → State) (h : s.ready) : s.command k = k (s.acknowledge true) := by
  obtain ⟨h1, h2⟩ := h
  rw [State.command, if_neg (by simp [h1])]
  split
  · exact absurd ‹_› (h2 _)
  · rfl
  · rfl

/-- A write that comes with RESET# low, or while a command is IN_PROGRESS, is not acknowledged (R173, R175). -/
theorem State.command_of_low (s : State) (k : State → State) (h : s.resetLow = true) :
    s.command k = s.acknowledge false := by
  simp [State.command, h]

theorem State.command_of_inProgress (s : State) (k : State → State) {p : PortId}
    (h : s.supervisor.command = .inProgress p) : s.command k = s.acknowledge false := by
  rw [State.command]
  split
  · rfl
  · simp [h]

/-! ### Port reset and its end -/

/-- A port reset at the part (R152, R144, R148). -/
theorem State.portReset_spec (s : State) (p : PortId) (close : Bool) :
    PortResetDone s (s.portReset p close) p close ∧ (s.portReset p close).reports = s.reports ∧
      (s.portReset p close).supervisor = s.supervisor := by
  refine ⟨⟨⟨_, rfl, ?_⟩, ?_, rfl, ?_, rfl, rfl, rfl, rfl, rfl, rfl, rfl⟩, rfl, rfl⟩
  · show (s.setPort p ((s.port p).reset close)).port p = _
    rw [State.port_setPort_self]
    rfl
  · intro q hq
    exact State.port_setPort_ne s _ hq
  · show s.arbiter.discard p = _
    rw [Arbiter.discard]
    split <;> rfl

/-- The end of RESETTING writes the port's link state and may complete the supervisor's command, nothing else (R153,
R181). -/
theorem State.endReset_writes (s : State) (p : PortId) : ∃ l sup, s.endReset p =
    { s.setPort p { s.port p with link := l } with supervisor := sup } ∧ (l = (s.port p).link ∨ l = .offline) := by
  rw [State.endReset]
  split
  · refine ⟨.offline, (s.goOffline p).supervisor, ?_, .inr rfl⟩
    rw [State.goOffline]
    dsimp only
    split
    · rfl
    · rfl
  · refine ⟨(s.port p).link, s.supervisor, ?_, .inl rfl⟩
    exact (State.setPort_port s p).symm

end Sys2Proof.Machine
end

