-- ==== Sys2Proof/Laws/Grants.lean ====
section
/-! SUPPORT. What the shared operations of the lock unit can change: grants touch one lock and only extend hold lists and
clear waits; no operation of a port, tick or supervisor takes a lock out of service or moves a guard-flight count. -/

namespace Sys2Proof.Machine

/-! ### Grants touch one lock -/

/-- From `u` to `v` only lock `l` may have changed, and of it neither parameters, taint nor guard-flight count; hold lists
have only gained live entries for `l`; waits have only been cleared. -/
def LockUnit.OnlyGrants (u : LockUnit) (l : LockId) (v : LockUnit) : Prop :=
  (∀ k, k ≠ l → v.lock k = u.lock k) ∧
  ((v.lock l).params = (u.lock l).params ∧ (v.lock l).taint = (u.lock l).taint ∧
    (v.lock l).guardFlight = (u.lock l).guardFlight) ∧
  (∀ p, ∃ es, v.held p = u.held p ++ es ∧ ∀ e ∈ es, e.lock = l ∧ e.revoked = false ∧ e.loss = false) ∧
  (∀ p, v.wait p = u.wait p ∨ v.wait p = none)

theorem LockUnit.OnlyGrants.refl (u : LockUnit) (l : LockId) : u.OnlyGrants l u :=
  ⟨fun _ _ => rfl, ⟨rfl, rfl, rfl⟩, fun _ => ⟨[], by simp⟩, fun _ => .inl rfl⟩

theorem LockUnit.OnlyGrants.trans {u v w : LockUnit} {l : LockId} (h : u.OnlyGrants l v) (h' : v.OnlyGrants l w) :
    u.OnlyGrants l w := by
  obtain ⟨hl, ⟨hp, ht, hg⟩, hh, hw⟩ := h
  obtain ⟨hl', ⟨hp', ht', hg'⟩, hh', hw'⟩ := h'
  refine ⟨fun k hk => (hl' k hk).trans (hl k hk), ⟨hp'.trans hp, ht'.trans ht, hg'.trans hg⟩, fun p => ?_, fun p => ?_⟩
  · obtain ⟨es, he, hes⟩ := hh p
    obtain ⟨es', he', hes'⟩ := hh' p
    refine ⟨es ++ es', by rw [he', he, List.append_assoc], fun e hm => ?_⟩
    rcases List.mem_append.1 hm with h1 | h1
    · exact hes e h1
    · exact hes' e h1
  · rcases hw' p with h1 | h1
    · rcases hw p with h2 | h2
      · exact .inl (h1.trans h2)
      · exact .inr (h1.trans h2)
    · exact .inr h1

/-- Writing lock `l` with its parameters, taint and guard-flight count kept. -/
theorem LockUnit.OnlyGrants.setLock (u : LockUnit) (l : LockId) (r : LockRecord) (hp : r.params = (u.lock l).params)
    (ht : r.taint = (u.lock l).taint) (hg : r.guardFlight = (u.lock l).guardFlight) : u.OnlyGrants l (u.setLock l r) :=
  ⟨fun k hk => LockUnit.lock_setLock_ne u r hk, by simp [hp, ht, hg], fun _ => ⟨[], by simp⟩, fun _ => .inl rfl⟩

/-- The same followed by anything that only grants. -/
theorem LockUnit.OnlyGrants.afterSetLock {u v : LockUnit} {l : LockId} {r : LockRecord}
    (h : (u.setLock l r).OnlyGrants l v) (hp : r.params = (u.lock l).params) (ht : r.taint = (u.lock l).taint)
    (hg : r.guardFlight = (u.lock l).guardFlight) : u.OnlyGrants l v :=
  (LockUnit.OnlyGrants.setLock u l r hp ht hg).trans h

theorem LockUnit.OnlyGrants.clearWait (u : LockUnit) (l : LockId) (p : PortId) : u.OnlyGrants l (u.setWait p none) := by
  refine ⟨fun k _ => LockUnit.lock_setWait u p none k, ⟨rfl, rfl, rfl⟩, fun q => ⟨[], by simp⟩, fun q => ?_⟩
  by_cases h : q = p
  · subst h; simp
  · simp [h]

/-- A grant (R18). -/
theorem LockUnit.grant_onlyGrants (u : LockUnit) (l : LockId) (p : PortId) (m : Mode) :
    u.OnlyGrants l (u.grant l p m) := by
  refine ⟨fun k hk => ?_, ?_, fun q => ?_, fun q => .inl rfl⟩
  · simp [LockUnit.grant, hk]
  · simp [LockUnit.grant, LockRecord.grant]
  · by_cases h : q = p
    · subst h
      exact ⟨[{ lock := l, mode := m, generation := (u.lock l).generation + 1, revoked := false, loss := false }],
        by simp [LockUnit.grant], by simp⟩
    · exact ⟨[], by simp [LockUnit.grant, h], by simp⟩

theorem LockUnit.grantWaiters_onlyGrants (l : LockId) (ws : List Waiter) :
    ∀ u : LockUnit, u.OnlyGrants l (u.grantWaiters l ws).1 := by
  induction ws with
  | nil => intro u; exact .refl u l
  | cons w ws ih =>
    intro u
    exact ((LockUnit.OnlyGrants.clearWait u l w.port).trans (LockUnit.grant_onlyGrants _ l w.port w.mode)).trans (ih _)

theorem LockUnit.grantRun_onlyGrants (u : LockUnit) (l : LockId) : u.OnlyGrants l (u.grantRun l).1 :=
  LockUnit.OnlyGrants.afterSetLock (LockUnit.grantWaiters_onlyGrants l _ _) rfl rfl rfl

theorem LockUnit.grantHead_onlyGrants (u : LockUnit) (l : LockId) : u.OnlyGrants l (u.grantHead l).1 := by
  rw [LockUnit.grantHead]
  split
  · exact .refl u l
  · split
    · exact LockUnit.OnlyGrants.afterSetLock (LockUnit.grantWaiters_onlyGrants l _ _) rfl rfl rfl
    · exact LockUnit.grantRun_onlyGrants u l

/-- The grantable moment (R32 to R34, R10). -/
theorem LockUnit.settle_onlyGrants (u : LockUnit) (l : LockId) : u.OnlyGrants l (u.settle l).1 := by
  rw [LockUnit.settle]
  split
  · exact .setLock u l _ rfl rfl rfl
  · split
    · exact .setLock u l _ rfl rfl rfl
    · exact LockUnit.grantHead_onlyGrants u l

/-- A waiter leaves without a grant (R31, R36). -/
theorem LockUnit.removeWaiter_onlyGrants (u : LockUnit) (l : LockId) (p : PortId) :
    u.OnlyGrants l (u.removeWaiter l p).1 := by
  rw [LockUnit.removeWaiter]
  have h := (LockUnit.OnlyGrants.setLock u l
    { u.lock l with waiters := (u.lock l).waiters.filter (fun w => w.port != p) } rfl rfl rfl).trans
    (LockUnit.OnlyGrants.clearWait _ l p)
  split
  · exact h.trans (LockUnit.grantRun_onlyGrants _ l)
  · exact h

/-- A sharer leaves (R21, R155). -/
theorem LockUnit.leaveShared_onlyGrants (u : LockUnit) (l : LockId) (p : PortId) :
    u.OnlyGrants l (u.leaveShared l p).1 := by
  rw [LockUnit.leaveShared]
  dsimp only
  split
  · exact LockUnit.OnlyGrants.afterSetLock (LockUnit.settle_onlyGrants _ l) rfl rfl rfl
  · exact .setLock u l _ rfl rfl rfl

/-! ### Ports that do not wait there -/

/-- From `u` to `v` port `p` keeps its hold list and its pending wait. -/
def LockUnit.KeepsPort (u : LockUnit) (p : PortId) (v : LockUnit) : Prop := v.held p = u.held p ∧ v.wait p = u.wait p

theorem LockUnit.KeepsPort.refl (u : LockUnit) (p : PortId) : u.KeepsPort p u := ⟨rfl, rfl⟩

theorem LockUnit.KeepsPort.trans {u v w : LockUnit} {p : PortId} (h : u.KeepsPort p v) (h' : v.KeepsPort p w) :
    u.KeepsPort p w := ⟨h'.1.trans h.1, h'.2.trans h.2⟩

theorem LockUnit.KeepsPort.setLock (u : LockUnit) (p : PortId) (l : LockId) (r : LockRecord) :
    u.KeepsPort p (u.setLock l r) := ⟨rfl, rfl⟩

theorem LockUnit.KeepsPort.setHeld (u : LockUnit) {p q : PortId} (es : List HoldEntry) (h : p ≠ q) :
    u.KeepsPort p (u.setHeld q es) := ⟨LockUnit.held_setHeld_ne u es h, rfl⟩

theorem LockUnit.KeepsPort.setWait (u : LockUnit) {p q : PortId} (w : Option LockId) (h : p ≠ q) :
    u.KeepsPort p (u.setWait q w) := ⟨rfl, LockUnit.wait_setWait_ne u w h⟩

theorem LockUnit.grant_keepsPort (u : LockUnit) (l : LockId) {p q : PortId} (m : Mode) (h : p ≠ q) :
    u.KeepsPort p (u.grant l q m) := (LockUnit.KeepsPort.setLock u p l _).trans (.setHeld _ _ h)

theorem LockUnit.grantWaiters_keepsPort (l : LockId) (p : PortId) (ws : List Waiter) :
    ∀ u : LockUnit, (∀ w ∈ ws, w.port ≠ p) → u.KeepsPort p (u.grantWaiters l ws).1 := by
  induction ws with
  | nil => intro u _; exact .refl u p
  | cons w ws ih =>
    intro u h
    have hw : p ≠ w.port := fun e => h w (by simp) e.symm
    exact ((LockUnit.KeepsPort.setWait u none hw).trans (LockUnit.grant_keepsPort _ l w.mode hw)).trans
      (ih _ fun x hx => h x (List.mem_cons_of_mem _ hx))

/-- A leading run touches only ports that wait at the lock. -/
theorem LockUnit.grantRun_keepsPort (u : LockUnit) (l : LockId) (p : PortId)
    (h : ∀ w ∈ (u.lock l).waiters, w.port ≠ p) : u.KeepsPort p (u.grantRun l).1 :=
  (LockUnit.KeepsPort.setLock u p l _).trans
    (LockUnit.grantWaiters_keepsPort l p _ _ fun w hw => h w (List.takeWhile_subset _ hw))

/-- The grantable moment touches only ports that wait at the lock. -/
theorem LockUnit.settle_keepsPort (u : LockUnit) (l : LockId) (p : PortId)
    (h : ∀ w ∈ (u.lock l).waiters, w.port ≠ p) : u.KeepsPort p (u.settle l).1 := by
  rw [LockUnit.settle]
  split
  · exact .setLock u p l _
  · split
    · exact .setLock u p l _
    · rw [LockUnit.grantHead]
      split
      · exact .refl u p
      · rename_i w ws hws
        split
        · refine (LockUnit.KeepsPort.setLock u p l _).trans (LockUnit.grantWaiters_keepsPort l p _ _ fun x hx => ?_)
          rw [List.mem_singleton] at hx
          subst hx
          exact h x (by rw [hws]; simp)
        · exact LockUnit.grantRun_keepsPort u l p h

/-- A removal touches only the port removed and ports that wait at the lock. -/
theorem LockUnit.removeWaiter_keepsPort (u : LockUnit) (l : LockId) {p q : PortId} (hq : p ≠ q)
    (h : ∀ w ∈ (u.lock l).waiters, w.port ≠ p) : u.KeepsPort p (u.removeWaiter l q).1 := by
  have h1 : u.KeepsPort p ((u.setLock l { u.lock l with
      waiters := (u.lock l).waiters.filter (fun w => w.port != q) }).setWait q none) :=
    (LockUnit.KeepsPort.setLock u p l _).trans (.setWait _ _ hq)
  rw [LockUnit.removeWaiter]
  split
  · refine h1.trans (LockUnit.grantRun_keepsPort _ l p fun w hw => ?_)
    rw [LockUnit.lock_setWait, LockUnit.lock_setLock_self] at hw
    exact h w (List.mem_of_mem_filter hw)
  · exact h1

/-- A sharer that leaves touches only ports that wait at the lock. -/
theorem LockUnit.leaveShared_keepsPort (u : LockUnit) (l : LockId) (p q : PortId)
    (h : ∀ w ∈ (u.lock l).waiters, w.port ≠ p) : u.KeepsPort p (u.leaveShared l q).1 := by
  rw [LockUnit.leaveShared]
  dsimp only
  split
  · exact (LockUnit.KeepsPort.setLock u p l _).trans
      (LockUnit.settle_keepsPort _ l p fun w hw => h w (by simpa [LockRecord.stopLease] using hw))
  · exact .setLock u p l _

/-- An emptied lock that settles touches only ports that wait at the lock. -/
theorem LockUnit.emptySettle_keepsPort (u : LockUnit) (l : LockId) (taint : Bool) (p : PortId)
    (h : ∀ w ∈ (u.lock l).waiters, w.port ≠ p) : u.KeepsPort p ((u.emptyHolders l taint).settle l).1 :=
  (LockUnit.KeepsPort.setLock u p l _).trans
    (LockUnit.settle_keepsPort _ l p fun w hw => h w (by simpa [LockUnit.emptyHolders, LockRecord.stopLease] using hw))

/-- A release touches only its own port and ports that wait at the entry's lock. -/
theorem LockUnit.giveBack_keepsPort (u : LockUnit) (tag : Tag) (e : HoldEntry) {p q : PortId} (hq : p ≠ q)
    (h : ∀ w ∈ (u.lock e.lock).waiters, w.port ≠ p) : u.KeepsPort p (u.giveBack q tag e).unit := by
  have h1 : u.KeepsPort p (u.dropEntry q e.lock) := .setHeld u _ hq
  rw [LockUnit.giveBack]
  dsimp only
  split
  · exact h1
  · split
    · exact h1.trans (LockUnit.leaveShared_keepsPort _ e.lock p q h)
    · exact h1.trans (LockUnit.emptySettle_keepsPort _ e.lock _ p h)

/-! ### Locks stay in service -/

/-- From `u` to `v` every guard-flight count is kept and no lock becomes UNDEFINED. -/
def LockUnit.KeepsService (u v : LockUnit) : Prop :=
  ∀ l, (v.lock l).guardFlight = (u.lock l).guardFlight ∧
    ((u.lock l).state ≠ .undefined → (v.lock l).state ≠ .undefined)

theorem LockUnit.KeepsService.refl (u : LockUnit) : u.KeepsService u := fun _ => ⟨rfl, id⟩

theorem LockUnit.KeepsService.trans {u v w : LockUnit} (h : u.KeepsService v) (h' : v.KeepsService w) :
    u.KeepsService w := fun l => ⟨(h' l).1.trans (h l).1, fun hu => (h' l).2 ((h l).2 hu)⟩

theorem LockUnit.KeepsService.of_locks {u v : LockUnit} (h : ∀ l, v.lock l = u.lock l) : u.KeepsService v :=
  fun l => by rw [h l]; exact ⟨rfl, id⟩

theorem LockUnit.KeepsService.setLock (u : LockUnit) (l : LockId) (r : LockRecord)
    (hg : r.guardFlight = (u.lock l).guardFlight) (hs : (u.lock l).state ≠ .undefined → r.state ≠ .undefined) :
    u.KeepsService (u.setLock l r) := by
  intro k
  by_cases h : k = l
  · subst h; simpa [hg] using hs
  · simp [h]

/-- The same followed by anything that keeps service. -/
theorem LockUnit.KeepsService.afterSetLock {u v : LockUnit} {l : LockId} {r : LockRecord}
    (h : (u.setLock l r).KeepsService v) (hg : r.guardFlight = (u.lock l).guardFlight)
    (hs : (u.lock l).state ≠ .undefined → r.state ≠ .undefined) : u.KeepsService v :=
  (LockUnit.KeepsService.setLock u l r hg hs).trans h

theorem LockUnit.KeepsService.setHeld (u : LockUnit) (p : PortId) (es : List HoldEntry) :
    u.KeepsService (u.setHeld p es) := .of_locks fun _ => rfl

theorem LockUnit.KeepsService.setWait (u : LockUnit) (p : PortId) (w : Option LockId) :
    u.KeepsService (u.setWait p w) := .of_locks fun _ => rfl

theorem LockUnit.grant_keepsService (u : LockUnit) (l : LockId) (p : PortId) (m : Mode) :
    u.KeepsService (u.grant l p m) :=
  LockUnit.KeepsService.afterSetLock (.setHeld _ p _) rfl fun _ => by cases m <;> exact fun h => nomatch h

theorem LockUnit.grantWaiters_keepsService (l : LockId) (ws : List Waiter) :
    ∀ u : LockUnit, u.KeepsService (u.grantWaiters l ws).1 := by
  induction ws with
  | nil => intro u; exact .refl u
  | cons w ws ih =>
    intro u
    exact ((LockUnit.KeepsService.setWait u w.port none).trans (LockUnit.grant_keepsService _ l w.port w.mode)).trans
      (ih _)

theorem LockUnit.grantRun_keepsService (u : LockUnit) (l : LockId) : u.KeepsService (u.grantRun l).1 :=
  LockUnit.KeepsService.afterSetLock (LockUnit.grantWaiters_keepsService l _ _) rfl id

theorem LockUnit.settle_keepsService (u : LockUnit) (l : LockId) : u.KeepsService (u.settle l).1 := by
  rw [LockUnit.settle]
  split
  · exact .setLock u l _ rfl (by simp)
  · split
    · exact .setLock u l _ rfl (by simp)
    · rw [LockUnit.grantHead]
      split
      · exact .refl u
      · split
        · exact LockUnit.KeepsService.afterSetLock (LockUnit.grantWaiters_keepsService l _ _) rfl id
        · exact LockUnit.grantRun_keepsService u l

theorem LockUnit.removeWaiter_keepsService (u : LockUnit) (l : LockId) (p : PortId) :
    u.KeepsService (u.removeWaiter l p).1 := by
  rw [LockUnit.removeWaiter]
  have h := (LockUnit.KeepsService.setLock u l
    { u.lock l with waiters := (u.lock l).waiters.filter (fun w => w.port != p) } rfl id).trans
    (LockUnit.KeepsService.setWait _ p none)
  split
  · exact h.trans (LockUnit.grantRun_keepsService _ l)
  · exact h

theorem LockUnit.emptyHolders_keepsService (u : LockUnit) (l : LockId) (taint : Bool) :
    u.KeepsService (u.emptyHolders l taint) := .setLock u l _ rfl id

theorem LockUnit.leaveShared_keepsService (u : LockUnit) (l : LockId) (p : PortId) :
    u.KeepsService (u.leaveShared l p).1 := by
  rw [LockUnit.leaveShared]
  dsimp only
  split
  · exact LockUnit.KeepsService.afterSetLock (LockUnit.settle_keepsService _ l) rfl id
  · exact .setLock u l _ rfl id

/-- Acquisitions and tries (R15 to R18, R30). -/
theorem LockUnit.seek_keepsService (u : LockUnit) (p : PortId) (op : LockOp) (m : Mode) (tryOnly : Bool)
    (limit : BitVec 16) : u.KeepsService (u.seek p op m tryOnly limit).unit := by
  rw [LockUnit.seek]
  split
  · exact .refl u
  · split
    · exact .refl u
    · split
      · exact LockUnit.grant_keepsService u _ p m
      · split
        · exact .refl u
        · exact LockUnit.KeepsService.afterSetLock (.setWait _ p _) rfl id

theorem LockUnit.giveBack_keepsService (u : LockUnit) (p : PortId) (tag : Tag) (e : HoldEntry) :
    u.KeepsService (u.giveBack p tag e).unit := by
  have h := LockUnit.KeepsService.setHeld u p ((u.held p).filter (fun x => x.lock != e.lock))
  rw [LockUnit.giveBack]
  dsimp only
  split
  · exact h
  · split
    · exact h.trans (LockUnit.leaveShared_keepsService _ e.lock p)
    · exact (h.trans (LockUnit.emptyHolders_keepsService _ e.lock _)).trans (LockUnit.settle_keepsService _ e.lock)

/-- RELEASE (R20 to R22). -/
theorem LockUnit.release_keepsService (u : LockUnit) (p : PortId) (op : LockOp) :
    u.KeepsService (u.release p op).unit := by
  rw [LockUnit.release]
  split
  · exact .refl u
  · split
    · exact .refl u
    · exact LockUnit.giveBack_keepsService u p _ _

/-- RELEASE-LATEST (R23). -/
theorem LockUnit.releaseLatest_keepsService (u : LockUnit) (p : PortId) (op : LockOp) :
    u.KeepsService (u.releaseLatest p op).unit := by
  rw [LockUnit.releaseLatest]
  split
  · exact .refl u
  · exact LockUnit.giveBack_keepsService u p _ _

/-- WITHDRAW (R24). -/
theorem LockUnit.withdraw_keepsService (u : LockUnit) (p : PortId) (op : LockOp) :
    u.KeepsService (u.withdraw p op).unit := by
  rw [LockUnit.withdraw]
  split
  · exact .refl u
  · split
    · exact .refl u
    · exact LockUnit.removeWaiter_keepsService u _ p

/-- A timeout (R39). -/
theorem LockUnit.timeout_keepsService (u : LockUnit) (l : LockId) (p : PortId) :
    u.KeepsService (u.timeout l p).unit := by
  rw [LockUnit.timeout]
  split
  · exact .refl u
  · exact LockUnit.removeWaiter_keepsService u l p

theorem LockUnit.markRevoked_lock (l : LockId) (hs : List Holder) : ∀ (u : LockUnit) (k : LockId),
    (u.markRevoked l hs).lock k = u.lock k := by
  induction hs with
  | nil => intro u k; rfl
  | cons h hs ih =>
    intro u k
    have hstep : u.markRevoked l (h :: hs) = (u.setHeld h.port (revokeEntries l (u.held h.port))).markRevoked l hs := rfl
    rw [hstep, ih, LockUnit.lock_setHeld]

theorem LockUnit.markRevoked_wait (l : LockId) (hs : List Holder) : ∀ (u : LockUnit) (p : PortId),
    (u.markRevoked l hs).wait p = u.wait p := by
  induction hs with
  | nil => intro u p; rfl
  | cons h hs ih =>
    intro u p
    have hstep : u.markRevoked l (h :: hs) = (u.setHeld h.port (revokeEntries l (u.held h.port))).markRevoked l hs := rfl
    rw [hstep, ih, LockUnit.wait_setHeld]

theorem revokeEntries_twice (l : LockId) (es : List HoldEntry) :
    revokeEntries l (revokeEntries l es) = revokeEntries l es := by
  simp only [revokeEntries, List.map_map]
  apply List.map_congr_left
  intro e _
  by_cases h : e.lock = l <;> simp [h]

theorem LockUnit.markRevoked_held (l : LockId) (hs : List Holder) : ∀ (u : LockUnit) (p : PortId),
    (u.markRevoked l hs).held p =
      if hs.any (fun h => h.port == p) then revokeEntries l (u.held p) else u.held p := by
  induction hs with
  | nil => intro u p; rfl
  | cons h hs ih =>
    intro u p
    have hstep : u.markRevoked l (h :: hs) = (u.setHeld h.port (revokeEntries l (u.held h.port))).markRevoked l hs := rfl
    rw [hstep, ih]
    by_cases hp : p = h.port
    · subst hp
      simp [revokeEntries_twice]
    · have hp' : ¬h.port = p := fun e => hp e.symm
      simp [hp, hp']

/-- A revocation (R72). -/
theorem LockUnit.revoke_keepsService (u : LockUnit) (l : LockId) : u.KeepsService (u.revoke l).unit := by
  have h : u.KeepsService (u.markRevoked l (u.lock l).holders) := .of_locks (LockUnit.markRevoked_lock l _ u)
  exact (h.trans (LockUnit.emptyHolders_keepsService _ l _)).trans (LockUnit.settle_keepsService _ l)

/-- A lease expiry (R69 to R71). -/
theorem LockUnit.leaseExpiry_keepsService (u : LockUnit) (l : LockId) : u.KeepsService (u.leaseExpiry l).unit := by
  rw [LockUnit.leaseExpiry]
  split
  · split
    · exact .setLock u l _ rfl id
    · exact LockUnit.revoke_keepsService u l
    · exact .refl u
  · exact .refl u

theorem LockUnit.breakLock_keepsService (u : LockUnit) (l : LockId) : u.KeepsService (u.breakLock l).1 := by
  have hw : ∀ (ws : List Waiter) (v : LockUnit),
      v.KeepsService (ws.foldl (fun u w => u.setWait w.port none) v) := by
    intro ws
    induction ws with
    | nil => intro v; exact .refl v
    | cons w ws ih => intro v; exact (LockUnit.KeepsService.setWait v w.port none).trans (ih _)
  exact LockUnit.KeepsService.afterSetLock (hw _ _) rfl fun _ h => nomatch h

/-- One hold entry of a port-gone claim (R155, R156). -/
theorem LockUnit.claimEntry_keepsService (u : LockUnit) (p : PortId) (e : HoldEntry) :
    u.KeepsService (u.claimEntry p e).unit := by
  rw [LockUnit.claimEntry]
  split
  · exact .refl u
  · split
    · exact LockUnit.leaveShared_keepsService u e.lock p
    · dsimp only
      rw [LockUnit.orphan]
      have h := LockUnit.emptyHolders_keepsService u e.lock true
      split
      · exact h.trans (LockUnit.breakLock_keepsService _ e.lock)
      · exact h.trans (LockUnit.settle_keepsService _ e.lock)
      · exact h.trans (LockUnit.settle_keepsService _ e.lock)

theorem LockUnit.claimEntries_keepsService (p : PortId) (es : List HoldEntry) :
    ∀ u : LockUnit, u.KeepsService (u.claimEntries p es).unit := by
  induction es with
  | nil => intro u; exact .refl u
  | cons e es ih => intro u; exact (LockUnit.claimEntry_keepsService u p e).trans (ih _)

/-- A port-gone claim (R154). -/
theorem LockUnit.claim_keepsService (u : LockUnit) (p : PortId) : u.KeepsService (u.claim p).unit := by
  have h : u.KeepsService (u.dropWait p).1 := by
    rw [LockUnit.dropWait]
    split
    · exact .refl u
    · exact LockUnit.removeWaiter_keepsService u _ p
  exact (h.trans (LockUnit.claimEntries_keepsService p _ _)).trans (.setHeld _ p _)

/-- A tick claim (R67). -/
theorem LockUnit.ticked_keepsService (u : LockUnit) (l : LockId) : u.KeepsService (u.setLock l (u.lock l).ticked) :=
  .setLock u l _ rfl id

end Sys2Proof.Machine
end

