-- ==== Sys2Proof/Laws/Operands.lean ====
section
/-! SUPPORT. What the operand readers accept: when a number or a code of a command is read, and as what. -/

namespace Sys2Proof.Machine

theorem portOf_eq_some {b : Byte} {p : PortId} : portOf b = some p ↔ p.val = b.toNat := by
  unfold portOf
  split
  · simp [Fin.ext_iff, eq_comm]
  · have := p.isLt
    simp; omega

theorem portOf_eq_none {b : Byte} : portOf b = none ↔ 5 < b.toNat := by
  simp [portOf]; omega

theorem lockOf_eq_some {b : Byte} {l : LockId} : lockOf b = some l ↔ l.val = b.toNat := by
  unfold lockOf
  split
  · simp [Fin.ext_iff, eq_comm]
  · have := l.isLt
    simp; omega

theorem lockOf_eq_none {b : Byte} : lockOf b = none ↔ 63 < b.toNat := by
  simp [lockOf]; omega

theorem windowOf_eq_some {b : Byte} {w : WindowId} : windowOf b = some w ↔ w.val = b.toNat := by
  unfold windowOf
  split
  · simp [Fin.ext_iff, eq_comm]
  · have := w.isLt
    simp; omega

theorem windowOf_eq_none {b : Byte} : windowOf b = none ↔ 15 < b.toNat := by
  simp [windowOf]; omega

theorem slotLock_eq_some {n : Nat} {l : LockId} : slotLock n = some l ↔ l.val = n := by
  unfold slotLock
  split
  · simp [Fin.ext_iff, eq_comm]
  · have := l.isLt
    simp; omega

theorem slotLock_eq_none {n : Nat} : slotLock n = none ↔ 63 < n := by
  simp [slotLock]; omega

theorem enableOf_eq (b : Byte) : enableOf b = if b.toNat ≤ 1 then some (b == 1) else none := by
  unfold enableOf
  split
  · subst b; rfl
  · split
    · subst b; rfl
    · rw [if_neg (by bv_omega)]

theorem classOf_eq (b : Byte) : classOf b = if b.toNat ≤ 1 then some (if b = 0 then .fore else .back) else none := by
  unfold classOf
  split
  · subst b; rfl
  · split
    · subst b; rfl
    · rw [if_neg (by bv_omega)]

theorem writePolicyOf_eq_some {b : Byte} {w : WritePolicy} : writePolicyOf b = some w ↔ w.code = b.toNat := by
  unfold writePolicyOf
  split
  · subst b; cases w <;> simp [WritePolicy.code]
  · split
    · subst b; cases w <;> simp [WritePolicy.code]
    · cases w <;> simp [WritePolicy.code] <;> bv_omega

theorem readPolicyOf_eq_some {b : Byte} {r : ReadPolicy} : readPolicyOf b = some r ↔ r.code = b.toNat := by
  unfold readPolicyOf
  split
  · subst b; cases r <;> simp [ReadPolicy.code]
  · split
    · subst b; cases r <;> simp [ReadPolicy.code]
    · split
      · subst b; cases r <;> simp [ReadPolicy.code]
      · cases r <;> simp [ReadPolicy.code] <;> bv_omega

theorem leasePolicyOf_eq_some {b : Byte} {q : LeasePolicy} : leasePolicyOf b = some q ↔ q.code = b.toNat := by
  unfold leasePolicyOf
  split
  · subst b; cases q <;> simp [LeasePolicy.code]
  · split
    · subst b; cases q <;> simp [LeasePolicy.code]
    · cases q <;> simp [LeasePolicy.code] <;> bv_omega

theorem orphanPolicyOf_eq_some {b : Byte} {q : OrphanPolicy} : orphanPolicyOf b = some q ↔ q.code = b.toNat := by
  unfold orphanPolicyOf
  split
  · subst b; cases q <;> simp [OrphanPolicy.code]
  · split
    · subst b; cases q <;> simp [OrphanPolicy.code]
    · cases q <;> simp [OrphanPolicy.code] <;> bv_omega

end Sys2Proof.Machine
end

