-- ==== Sys2Proof/Laws/Reports.lean ====
section
/-! SUPPORT. Reports: which one a FAULT_REPORT takes, and what keeps the tick counter that it reads. -/

namespace Sys2Proof.Machine

/-! ### One FAULT_REPORT -/

/-- The oldest report of the block leaves, the others keep their order (R163). -/
theorem nextReport_of_split {src : FaultSource} {before after : List Report} {r : Report} (hr : r.source = src)
    (hb : ∀ b ∈ before, b.source ≠ src) : nextReport src (before ++ r :: after) = some (r, before ++ after) := by
  have h1 : ∀ b ∈ before, ¬b.isFrom src = true := fun b h => by simpa [Report.isFrom] using hb b h
  have h2 : r.isFrom src = true := by simpa [Report.isFrom] using hr
  have hf : (before ++ r :: after).find? (fun r => r.isFrom src) = some r := by
    rw [List.find?_append, List.find?_eq_none.2 h1]
    simp [h2]
  rw [nextReport, hf, List.eraseP_append_right _ h1]
  simp [h2]

theorem nextReport_eq_none {src : FaultSource} {rs : List Report} (h : ∀ r ∈ rs, r.source ≠ src) :
    nextReport src rs = none := by
  have h1 : ∀ r ∈ rs, ¬r.isFrom src = true := fun r hr => by simpa [Report.isFrom] using h r hr
  rw [nextReport, List.find?_eq_none.2 h1]
  rfl

/-- FAULT_REPORT at a block whose oldest report is known. -/
theorem execFaultReport_of_split (s : State) {src : FaultSource} {before after : List Report} {r : Report}
    (hs : s.resetLow = false) (hw : s.reports = before ++ r :: after) (hr : r.source = src)
    (hb : ∀ b ∈ before, b.source ≠ src) :
    execFaultReport src s = .next (s.takeReport r (before ++ after)) := by
  rw [execFaultReport, State.running_of_high _ _ hs, hw, nextReport_of_split hr hb]

/-- FAULT_REPORT at a block without reports takes nothing. -/
theorem execFaultReport_of_none (s : State) {src : FaultSource} (hs : s.resetLow = false)
    (h : ∀ r ∈ s.reports, r.source ≠ src) : execFaultReport src s = .next s := by
  rw [execFaultReport, State.running_of_high _ _ hs, nextReport_eq_none h]

/-! ### What keeps the lock clock -/

@[simp] theorem State.applyLock_clock (s : State) (e : LockEffect) : (s.applyLock e).clock = s.clock := by
  rw [State.applyLock_eq]

@[simp] theorem State.advance_clock (s : State) (p : PortId) (own : List Frame) : (s.advance p own).clock = s.clock := by
  obtain ⟨fs, n, _, h⟩ := State.advance_writes s p own
  rw [h]
  rfl

@[simp] theorem State.takeOp_clock (s : State) (p : PortId) (k : LockOpKind) (f : LockOp → LockEffect) :
    (s.takeOp p k f).clock = s.clock := by
  rw [State.takeOp]
  split
  · rfl
  · split
    · obtain ⟨_, _, _, _, ⟨_, h, _⟩, _⟩ := State.finishOp_spec s p (f ‹LockOp›)
      exact h
    · rfl

@[simp] theorem State.endReset_clock (s : State) (p : PortId) : (s.endReset p).clock = s.clock := by
  obtain ⟨l, sup, h, _⟩ := State.endReset_writes s p
  rw [h]
  rfl

@[simp] theorem State.portReset_clock (s : State) (p : PortId) (close : Bool) :
    (s.portReset p close).clock = s.clock := rfl

@[simp] theorem State.linkLoss_clock (s : State) (p : PortId) : (s.linkLoss p).clock = s.clock := rfl

/-- An event keeps the clock when its effect does. -/
theorem State.running_clock (s : State) (k : State → State) (h : (k s).clock = s.clock) :
    (s.running k).clock = s.clock := by
  rw [State.running]
  split
  · rfl
  · exact h

/-- A command keeps the clock when its effect does. -/
theorem State.command_clock (s : State) (k : State → State) (h : ∀ r : State, r.clock = s.clock → (k r).clock = s.clock) :
    (s.command k).clock = s.clock := by
  rw [State.command]
  split
  · rfl
  · split
    · rfl
    · exact h _ rfl
    · exact h _ rfl

end Sys2Proof.Machine
end

