-- ==== Sys2Proof/Laws/Waits.lean ====
section
/-! SUPPORT. The waits of the lock unit: a pending wait is the port's one waiter record (R29), and every event at the lock
unit answers exactly the waits that it ends (R31, R48). -/

namespace Sys2Proof.Machine

/-- R29: a port's pending wait is its one waiter record. -/
def LockUnit.WaitLaw (u : LockUnit) : Prop :=
  (∀ p l, u.wait p = some l ↔ ∃ w ∈ (u.lock l).waiters, w.port = p) ∧ ∀ l, ((u.lock l).waiters.map Waiter.port).Nodup

theorem LockUnit.Law.waits {u : LockUnit} (h : u.Law) : u.WaitLaw := ⟨h.2.2.2.2.1, fun l => (h.1 l).2.2.2.1⟩

/-- The tags of the answers to port `p`. -/
def answerTags (as : List Answer) (p : PortId) : List Tag := (as.filter (fun a => a.port == p)).map Answer.tag

@[simp] theorem answerTags_nil (p : PortId) : answerTags [] p = [] := rfl

theorem answerTags_append (as bs : List Answer) (p : PortId) :
    answerTags (as ++ bs) p = answerTags as p ++ answerTags bs p := by
  simp [answerTags]

theorem answerTags_cons (a : Answer) (as : List Answer) (p : PortId) :
    answerTags (a :: as) p = (if a.port = p then [a.tag] else []) ++ answerTags as p := by
  by_cases h : a.port = p <;> simp [answerTags, h]

/-- From `u` to `v` the waits that are gone are those that `as` answers, no wait is new, and a port without a wait or an
entry gets none. -/
def LockUnit.Ledger (u v : LockUnit) (as : List Answer) : Prop :=
  u.WaitLaw → v.WaitLaw ∧ (∀ p, List.Perm (u.waitTags p) (v.waitTags p ++ answerTags as p)) ∧
    ∀ p, u.wait p = none → u.held p = [] → v.wait p = none ∧ v.held p = []

theorem LockUnit.Ledger.refl (u : LockUnit) : u.Ledger u [] := fun h => ⟨h, fun p => by simp, fun _ hw hh => ⟨hw, hh⟩⟩

theorem LockUnit.Ledger.trans {u v w : LockUnit} {as bs : List Answer} (h : u.Ledger v as) (h' : v.Ledger w bs) :
    u.Ledger w (as ++ bs) := by
  intro hu
  obtain ⟨hv, h1, k1⟩ := h hu
  obtain ⟨hw, h2, k2⟩ := h' hv
  refine ⟨hw, fun p => (h1 p).trans ?_, fun p hp hh => ?_⟩
  · rw [answerTags_append]
    refine ((h2 p).append_right _).trans ?_
    rw [List.append_assoc]
    exact List.Perm.append_left _ List.perm_append_comm
  · obtain ⟨a, b⟩ := k1 p hp hh
    exact k2 p a b

theorem LockUnit.waitTags_congr {u v : LockUnit} {p : PortId} (hw : v.wait p = u.wait p)
    (hl : ∀ l, u.wait p = some l → v.waiterOf l p = u.waiterOf l p) : v.waitTags p = u.waitTags p := by
  rw [LockUnit.waitTags, LockUnit.waitTags, hw]
  cases h : u.wait p with
  | none => rfl
  | some l => simp [hl l h]

/-- What changes no queue and no wait changes no ledger. -/
theorem LockUnit.Ledger.of_same {u v : LockUnit} (hl : ∀ l, (v.lock l).waiters = (u.lock l).waiters)
    (hw : ∀ p, v.wait p = u.wait p) (hh : ∀ p, u.held p = [] → v.held p = []) : u.Ledger v [] := by
  intro h
  refine ⟨⟨fun p l => by rw [hw, hl]; exact h.1 p l, fun l => by rw [hl]; exact h.2 l⟩, fun p => ?_,
    fun p h1 h2 => ⟨(hw p).trans h1, hh p h2⟩⟩
  have : v.waitTags p = u.waitTags p := LockUnit.waitTags_congr (hw p) fun l _ => by simp [LockUnit.waiterOf, hl]
  simp [this]

theorem LockUnit.waitTags_of_none {u : LockUnit} {p : PortId} (h : u.wait p = none) : u.waitTags p = [] := by
  simp [LockUnit.waitTags, h]

theorem find?_port_of_mem {ws : List Waiter} (h : (ws.map Waiter.port).Nodup) {w : Waiter} (hw : w ∈ ws) :
    ws.find? (fun x => x.port == w.port) = some w := by
  induction ws with
  | nil => cases hw
  | cons x xs ih =>
    rw [List.map_cons, List.nodup_cons] at h
    rcases List.mem_cons.1 hw with rfl | hw
    · simp
    · have hx : x.port ≠ w.port := fun e => h.1 (e ▸ List.mem_map_of_mem hw)
      simp [hx, ih h.2 hw]

theorem filter_port_of_mem {ws : List Waiter} (h : (ws.map Waiter.port).Nodup) {w : Waiter} (hw : w ∈ ws) :
    ws.filter (fun x => x.port == w.port) = [w] := by
  induction ws with
  | nil => cases hw
  | cons x xs ih =>
    rw [List.map_cons, List.nodup_cons] at h
    rcases List.mem_cons.1 hw with rfl | hw
    · have : xs.filter (fun y => y.port == w.port) = [] := by
        rw [List.filter_eq_nil_iff]
        intro y hy e
        have e : y.port = w.port := by simpa using e
        exact h.1 (e ▸ List.mem_map_of_mem hy)
      simp [this]
    · have hx : x.port ≠ w.port := fun e => h.1 (e ▸ List.mem_map_of_mem hw)
      simp [hx, ih h.2 hw]

theorem LockUnit.waitTags_of_mem {u : LockUnit} (h : u.WaitLaw) {l : LockId} {w : Waiter} (hw : w ∈ (u.lock l).waiters) :
    u.waitTags w.port = [w.tag] := by
  have h1 : u.wait w.port = some l := (h.1 _ _).2 ⟨w, hw, rfl⟩
  simp [LockUnit.waitTags, h1, LockUnit.waiterOf, find?_port_of_mem (h.2 l) hw]

/-- Records leave the queue of one lock and the waits of their ports are cleared: the ledger balances when each record that
leaves is answered under its tag. -/
theorem LockUnit.Ledger.leave {u v : LockUnit} {l : LockId} {gone kept : List Waiter} {as : List Answer}
    (hq : List.Perm (u.lock l).waiters (gone ++ kept)) (hk : (v.lock l).waiters = kept)
    (hl : ∀ k, k ≠ l → (v.lock k).waiters = (u.lock k).waiters)
    (hw : ∀ p, v.wait p = if gone.any (fun w => w.port == p) then none else u.wait p)
    (hh : ∀ p, gone.any (fun w => w.port == p) = false → v.held p = u.held p)
    (ha : as.map (fun a => (a.port, a.tag)) = gone.map (fun w => (w.port, w.tag))) : u.Ledger v as := by
  intro h
  have hnd : ((gone ++ kept).map Waiter.port).Nodup := (hq.map Waiter.port).nodup_iff.1 (h.2 l)
  have hdis : ∀ w ∈ gone, ∀ x ∈ kept, w.port ≠ x.port := by
    rw [List.map_append, List.nodup_append] at hnd
    exact fun w hw' x hx => hnd.2.2 _ (List.mem_map_of_mem hw') _ (List.mem_map_of_mem hx)
  have hnk : (kept.map Waiter.port).Nodup := by
    rw [List.map_append, List.nodup_append] at hnd
    exact hnd.2.1
  have hng : (gone.map Waiter.port).Nodup := by
    rw [List.map_append, List.nodup_append] at hnd
    exact hnd.1
  have hin : ∀ p, gone.any (fun w => w.port == p) = true → u.wait p = some l := by
    intro p hp
    obtain ⟨w, hw', hwp⟩ := List.any_eq_true.1 hp
    exact (h.1 p l).2 ⟨w, hq.mem_iff.2 (List.mem_append_left _ hw'), by simpa using hwp⟩
  have hv : v.WaitLaw := by
    refine ⟨fun p k => ?_, fun k => ?_⟩
    · rw [hw]
      by_cases hp : gone.any (fun w => w.port == p) = true
      · simp only [hp, if_true]
        constructor
        · intro e; cases e
        · rintro ⟨x, hx, rfl⟩
          by_cases hkl : k = l
          · subst hkl
            rw [hk] at hx
            obtain ⟨w, hw', hwp⟩ := List.any_eq_true.1 hp
            exact absurd (by simpa using hwp) (hdis w hw' x hx)
          · rw [hl k hkl] at hx
            have h1 := (h.1 x.port k).2 ⟨x, hx, rfl⟩
            rw [hin _ hp] at h1
            exact absurd (Option.some.inj h1).symm hkl
      · rw [if_neg hp, h.1]
        by_cases hkl : k = l
        · subst hkl
          rw [hk]
          constructor
          · rintro ⟨x, hx, hxp⟩
            rcases List.mem_append.1 (hq.mem_iff.1 hx) with h1 | h1
            · exact absurd (List.any_eq_true.2 ⟨x, h1, by simpa using hxp⟩) hp
            · exact ⟨x, h1, hxp⟩
          · rintro ⟨x, hx, hxp⟩
            exact ⟨x, hq.mem_iff.2 (List.mem_append_right _ hx), hxp⟩
        · rw [hl k hkl]
    · by_cases hkl : k = l
      · subst hkl; rw [hk]; exact hnk
      · rw [hl k hkl]; exact h.2 k
  refine ⟨hv, fun p => ?_, fun p h1 h2 => ?_⟩
  rotate_left
  · have hp : gone.any (fun w => w.port == p) = false := by
      by_contra hp
      rw [hin p (by simpa using hp)] at h1
      cases h1
    exact ⟨by rw [hw, hp]; exact h1, (hh p hp).trans h2⟩
  have hat : answerTags as p = (gone.filter (fun w => w.port == p)).map Waiter.tag := by
    have h1 : answerTags as p =
        ((as.map (fun a => (a.port, a.tag))).filter (fun x => x.1 == p)).map Prod.snd := by
      simp [answerTags, List.filter_map, Function.comp_def]
    rw [h1, ha]
    simp [List.filter_map, Function.comp_def]
  rw [hat]
  by_cases hp : gone.any (fun w => w.port == p) = true
  · obtain ⟨w, hw', hwp⟩ := List.any_eq_true.1 hp
    have hwp : w.port = p := by simpa using hwp
    subst hwp
    have h1 := LockUnit.waitTags_of_mem h (hq.mem_iff.2 (List.mem_append_left kept hw'))
    have h2 : v.waitTags w.port = [] := LockUnit.waitTags_of_none (by rw [hw, if_pos hp])
    have h3 := filter_port_of_mem hng hw'
    rw [h1, h2, h3]
    exact List.Perm.refl _
  · have h3 : gone.filter (fun x => x.port == p) = [] := by
      rw [List.filter_eq_nil_iff]
      intro y hy e
      exact hp (List.any_eq_true.2 ⟨y, hy, e⟩)
    have h4 : v.waitTags p = u.waitTags p := by
      refine LockUnit.waitTags_congr (by rw [hw, if_neg hp]) fun k hk' => ?_
      by_cases hkl : k = l
      · subst hkl
        obtain ⟨x, hx, rfl⟩ := (h.1 p k).1 hk'
        have hx' : x ∈ kept := by
          rcases List.mem_append.1 (hq.mem_iff.1 hx) with h1 | h1
          · exact absurd (List.any_eq_true.2 ⟨x, h1, by simp⟩) hp
          · exact h1
        have hx'' : x ∈ (v.lock k).waiters := by rw [hk]; exact hx'
        rw [LockUnit.waiterOf, LockUnit.waiterOf, find?_port_of_mem (hv.2 k) hx'', find?_port_of_mem (h.2 k) hx]
      · simp [LockUnit.waiterOf, hl k hkl]
    rw [h3, h4]
    simp

/-! ### Grants and removals -/

theorem LockUnit.grantWaiters_waits (l : LockId) (ws : List Waiter) : ∀ u : LockUnit,
    (∀ k, ((u.grantWaiters l ws).1.lock k).waiters = (u.lock k).waiters) ∧
    (∀ p, (u.grantWaiters l ws).1.wait p = if ws.any (fun w => w.port == p) then none else u.wait p) ∧
    (∀ p, ws.any (fun w => w.port == p) = false → (u.grantWaiters l ws).1.held p = u.held p) ∧
    (u.grantWaiters l ws).2.map (fun a => (a.port, a.tag)) = ws.map (fun w => (w.port, w.tag)) := by
  induction ws with
  | nil => intro u; exact ⟨fun _ => rfl, fun _ => rfl, fun _ _ => rfl, rfl⟩
  | cons w ws ih =>
    intro u
    obtain ⟨h1, h2, h4, h3⟩ := ih ((u.setWait w.port none).grant l w.port w.mode)
    refine ⟨fun k => (h1 k).trans ?_, fun p => (h2 p).trans ?_, fun p hp => ?_, ?_⟩
    · by_cases hk : k = l
      · subst hk; simp [LockUnit.grant, LockRecord.grant]
      · simp [LockUnit.grant, hk]
    · have hg : ((u.setWait w.port none).grant l w.port w.mode).wait p = if p = w.port then none else u.wait p := by
        simp [LockUnit.grant, LockUnit.wait_setWait]
      rw [hg]
      by_cases hp : w.port = p
      · subst hp; simp
      · have hp' : ¬p = w.port := fun e => hp e.symm
        simp [hp, hp']
    · rw [List.any_cons, Bool.or_eq_false_iff] at hp
      have hw : p ≠ w.port := fun e => by simp [e] at hp
      exact (h4 p hp.2).trans (by simp [LockUnit.grant, hw])
    · simp [LockUnit.grantWaiters, h3]

/-- A leading run leaves the queue answered (R34, R36). -/
theorem LockUnit.grantRun_ledger (u : LockUnit) (l : LockId) : u.Ledger (u.grantRun l).1 (u.grantRun l).2 := by
  obtain ⟨h1, h2, h4, h3⟩ := LockUnit.grantWaiters_waits l ((u.lock l).waiters.takeWhile Waiter.isShared)
    (u.setLock l { u.lock l with waiters := (u.lock l).waiters.dropWhile Waiter.isShared })
  refine LockUnit.Ledger.leave (l := l) (gone := (u.lock l).waiters.takeWhile Waiter.isShared)
    (kept := (u.lock l).waiters.dropWhile Waiter.isShared) (by rw [List.takeWhile_append_dropWhile]) ?_ (fun k hk => ?_)
    h2 h4 h3
  · exact (h1 l).trans (by simp)
  · exact (h1 k).trans (by simp [hk])

theorem LockUnit.grantHead_ledger (u : LockUnit) (l : LockId) : u.Ledger (u.grantHead l).1 (u.grantHead l).2 := by
  rw [LockUnit.grantHead]
  split
  · exact .refl u
  · rename_i w ws hws
    split
    · obtain ⟨h1, h2, h4, h3⟩ := LockUnit.grantWaiters_waits l [w] (u.setLock l { u.lock l with waiters := ws })
      exact LockUnit.Ledger.leave (l := l) (gone := [w]) (kept := ws) (by rw [hws]; simp)
        ((h1 l).trans (by simp)) (fun k hk => (h1 k).trans (by simp [hk])) h2 h4 h3
    · exact LockUnit.grantRun_ledger u l

/-- Writing a lock without its queue. -/
theorem LockUnit.Ledger.setLock (u : LockUnit) (l : LockId) (r : LockRecord)
    (h : r.waiters = (u.lock l).waiters) : u.Ledger (u.setLock l r) [] := by
  refine .of_same (fun k => ?_) (fun _ => rfl) fun _ h => h
  by_cases hk : k = l
  · subst hk; simpa using h
  · simp [hk]

/-- The same followed by anything that balances. -/
theorem LockUnit.Ledger.afterSetLock {u v : LockUnit} {l : LockId} {r : LockRecord} {as : List Answer}
    (h : (u.setLock l r).Ledger v as) (hr : r.waiters = (u.lock l).waiters) : u.Ledger v as :=
  (LockUnit.Ledger.setLock u l r hr).trans h

theorem LockUnit.Ledger.setHeld (u : LockUnit) (p : PortId) (es : List HoldEntry) (h : u.held p = [] → es = []) :
    u.Ledger (u.setHeld p es) [] := by
  refine .of_same (fun _ => rfl) (fun _ => rfl) fun q hq => ?_
  rw [LockUnit.held_setHeld]
  split
  · rename_i e; subst e; exact h hq
  · exact hq

/-- The grantable moment (R32 to R34). -/
theorem LockUnit.settle_ledger (u : LockUnit) (l : LockId) : u.Ledger (u.settle l).1 (u.settle l).2 := by
  rw [LockUnit.settle]
  split
  · exact .setLock u l _ rfl
  · split
    · exact .setLock u l _ rfl
    · exact LockUnit.grantHead_ledger u l

/-- The record of a port leaves without a grant (R31, R36): it is the one record answered beside the run that it uncovers. -/
theorem LockUnit.removeWaiter_ledger (u : LockUnit) (l : LockId) (p : PortId) {w : Waiter} (hw : u.waiterOf l p = some w)
    {a : Answer} (ha : a.port = p ∧ a.tag = w.tag) :
    u.Ledger (u.removeWaiter l p).1 (a :: (u.removeWaiter l p).2) := by
  have hwp : w.port = p := by simpa using List.find?_some hw
  have hwm : w ∈ (u.lock l).waiters := List.mem_of_find?_eq_some hw
  have h1 : u.Ledger ((u.setLock l { u.lock l with
      waiters := (u.lock l).waiters.filter (fun w => w.port != p) }).setWait p none) [a] := by
    intro h
    have hq : List.Perm (u.lock l).waiters ([w] ++ (u.lock l).waiters.filter (fun x => x.port != p)) := by
      have hf := List.filter_append_perm (fun x : Waiter => x.port == p) (u.lock l).waiters
      have hone := filter_port_of_mem (h.2 l) hwm
      rw [hwp] at hone
      rw [hone] at hf
      exact hf.symm
    refine LockUnit.Ledger.leave (l := l) (gone := [w]) hq (by simp) (fun k hk => by simp [hk]) (fun q => ?_)
      (fun _ _ => rfl) (by simp [ha.1, ha.2, hwp]) h
    rw [LockUnit.wait_setWait]
    by_cases hq' : q = p
    · subst hq'; simp [hwp]
    · have : ¬p = q := fun e => hq' e.symm
      simp [hq', hwp, this]
  rw [LockUnit.removeWaiter]
  split
  · exact h1.trans (LockUnit.grantRun_ledger _ l)
  · exact h1

/-- A sharer leaves (R21, R155). -/
theorem LockUnit.leaveShared_ledger (u : LockUnit) (l : LockId) (p : PortId) :
    u.Ledger (u.leaveShared l p).1 (u.leaveShared l p).2 := by
  rw [LockUnit.leaveShared]
  dsimp only
  split
  · exact LockUnit.Ledger.afterSetLock (LockUnit.settle_ledger _ l) rfl
  · exact .setLock u l _ rfl

/-- A lock is emptied and settles (R22, R72, R156). -/
theorem LockUnit.emptySettle_ledger (u : LockUnit) (l : LockId) (taint : Bool) :
    u.Ledger ((u.emptyHolders l taint).settle l).1 ((u.emptyHolders l taint).settle l).2 :=
  LockUnit.Ledger.afterSetLock (LockUnit.settle_ledger _ l) rfl

/-- A lock breaks (R42, R158). -/
theorem LockUnit.breakLock_ledger (u : LockUnit) (l : LockId) : u.Ledger (u.breakLock l).1 (u.breakLock l).2 := by
  have hf : ∀ (ws : List Waiter) (v : LockUnit),
      (∀ k, ((ws.foldl (fun u w => u.setWait w.port none) v).lock k) = v.lock k) ∧
      (∀ p, ((ws.foldl (fun u w => u.setWait w.port none) v).held p) = v.held p) ∧
      ∀ p, (ws.foldl (fun u w => u.setWait w.port none) v).wait p =
        if ws.any (fun w => w.port == p) then none else v.wait p := by
    intro ws
    induction ws with
    | nil => intro v; exact ⟨fun _ => rfl, fun _ => rfl, fun _ => rfl⟩
    | cons w ws ih =>
      intro v
      obtain ⟨h1, h4, h2⟩ := ih (v.setWait w.port none)
      refine ⟨h1, h4, fun p => (h2 p).trans ?_⟩
      rw [LockUnit.wait_setWait]
      by_cases hp : w.port = p
      · subst hp; simp
      · have hp' : ¬p = w.port := fun e => hp e.symm
        simp [hp, hp']
  obtain ⟨h1, h4, h2⟩ := hf (u.lock l).waiters (u.setLock l { u.lock l with state := .broken, waiters := [] })
  refine LockUnit.Ledger.leave (l := l) (gone := (u.lock l).waiters) (kept := []) (by simp) ?_ (fun k hk => ?_) h2
    (fun p _ => h4 p) (by simp [LockUnit.breakLock])
  · exact (congrArg _ (h1 l)).trans (by simp)
  · exact (congrArg _ (h1 k)).trans (by simp [hk])

/-! ### Events at the lock unit -/

/-- A timeout (R39). -/
theorem LockUnit.timeout_ledger (u : LockUnit) (l : LockId) (p : PortId) :
    u.Ledger (u.timeout l p).unit (u.timeout l p).answers := by
  rw [LockUnit.timeout]
  split
  · exact .refl u
  · rename_i w hw
    exact LockUnit.removeWaiter_ledger u l p (Option.filter_eq_some_iff.1 hw).1 ⟨rfl, rfl⟩

theorem LockUnit.markRevoked_ledger (l : LockId) (hs : List Holder) :
    ∀ u : LockUnit, u.Ledger (u.markRevoked l hs) [] := by
  induction hs with
  | nil => intro u; exact .refl u
  | cons h hs ih => intro u; exact (LockUnit.Ledger.setHeld u h.port _ fun e => by simp [e, revokeEntries]).trans (ih _)

/-- A revocation (R72). -/
theorem LockUnit.revoke_ledger (u : LockUnit) (l : LockId) : u.Ledger (u.revoke l).unit (u.revoke l).answers :=
  (LockUnit.markRevoked_ledger l _ u).trans (LockUnit.emptySettle_ledger _ l _)

/-- A lease expiry (R69 to R71). -/
theorem LockUnit.leaseExpiry_ledger (u : LockUnit) (l : LockId) :
    u.Ledger (u.leaseExpiry l).unit (u.leaseExpiry l).answers := by
  rw [LockUnit.leaseExpiry]
  split
  · split
    · exact .setLock u l _ rfl
    · exact LockUnit.revoke_ledger u l
    · exact .refl u
  · exact .refl u

/-- A completion of a counted write (R77, R110). -/
theorem LockUnit.completeGuarded_ledger (u : LockUnit) (l : LockId) (e : FlightEntry) (failed : Bool) :
    u.Ledger (u.completeGuarded l e failed).unit (u.completeGuarded l e failed).answers := by
  have h1 : u.Ledger (if failed then u.failGuarded e.port l else u) [] := by
    split
    · exact LockUnit.Ledger.afterSetLock (.setHeld _ _ _ fun h => by simp [h]) rfl
    · exact .refl u
  rw [LockUnit.completeGuarded]
  dsimp only
  generalize (if failed then u.failGuarded e.port l else u) = u1 at h1
  refine h1.trans (bs := Prod.snd _) (LockUnit.Ledger.afterSetLock (l := l)
    (r := { u1.lock l with guardFlight := (u1.lock l).guardFlight - 1 }) ?_ rfl)
  split
  · exact LockUnit.settle_ledger _ l
  · exact .refl _

/-- One hold entry of a port-gone claim (R155, R156). -/
theorem LockUnit.claimEntry_ledger (u : LockUnit) (p : PortId) (e : HoldEntry) :
    u.Ledger (u.claimEntry p e).unit (u.claimEntry p e).answers := by
  rw [LockUnit.claimEntry]
  split
  · exact .refl u
  · split
    · exact LockUnit.leaveShared_ledger u e.lock p
    · dsimp only
      rw [LockUnit.orphan]
      split
      · exact LockUnit.Ledger.afterSetLock (LockUnit.breakLock_ledger _ e.lock) rfl
      · exact LockUnit.emptySettle_ledger u e.lock true
      · exact LockUnit.emptySettle_ledger u e.lock true

theorem LockUnit.claimEntries_ledger (p : PortId) (es : List HoldEntry) :
    ∀ u : LockUnit, u.Ledger (u.claimEntries p es).unit (u.claimEntries p es).answers := by
  induction es with
  | nil => intro u; exact .refl u
  | cons e es ih => intro u; exact (LockUnit.claimEntry_ledger u p e).trans (ih _)

/-- A port-gone claim (R154): its own port's wait ends without an answer and its entries go, and every other wait that ends is
answered. -/
theorem LockUnit.claim_ledger (u : LockUnit) (p : PortId) (h : u.WaitLaw) :
    (u.claim p).unit.WaitLaw ∧ (u.claim p).unit.wait p = none ∧ (u.claim p).unit.held p = [] ∧
      (∀ q, q ≠ p → List.Perm (u.waitTags q) ((u.claim p).unit.waitTags q ++ answerTags (u.claim p).answers q)) ∧
      ∀ q, u.wait q = none → u.held q = [] → (u.claim p).unit.wait q = none ∧ (u.claim p).unit.held q = [] := by
  have hrest := fun v => (LockUnit.claimEntries_ledger p (LockUnit.held v p) v).trans
    (LockUnit.Ledger.setHeld _ p [] fun _ => rfl)
  have hnone : ∀ v : LockUnit, v.WaitLaw → v.waitTags p = [] → v.wait p = none := by
    intro v hv ht
    cases hw : v.wait p with
    | none => rfl
    | some l =>
      obtain ⟨w, hm, hp⟩ := (hv.1 p l).1 hw
      rw [← hp, LockUnit.waitTags_of_mem hv hm] at ht
      cases ht
  rw [LockUnit.claim]
  dsimp only
  cases hw : u.wait p with
  | none =>
    have hd : u.dropWait p = (u, []) := by simp [LockUnit.dropWait, hw]
    rw [hd]
    obtain ⟨h1, h2, h3⟩ := hrest u h
    refine ⟨h1, hnone _ h1 ?_, by simp, fun q _ => by simpa using h2 q, h3⟩
    have h4 := h2 p
    rw [LockUnit.waitTags_of_none hw] at h4
    exact (List.append_eq_nil_iff.1 (List.perm_nil.1 h4.symm)).1
  | some l =>
    have hd : u.dropWait p = u.removeWaiter l p := by simp [LockUnit.dropWait, hw]
    rw [hd]
    obtain ⟨w, hm, hp⟩ := (h.1 p l).1 hw
    have hwo : u.waiterOf l p = some w := by rw [LockUnit.waiterOf, ← hp]; exact find?_port_of_mem (h.2 l) hm
    obtain ⟨h1, h2, h5⟩ := ((LockUnit.removeWaiter_ledger u l p hwo
      (a := { port := p, tag := w.tag, word := 0 }) ⟨rfl, rfl⟩).trans (hrest _)) h
    refine ⟨h1, hnone _ h1 ?_, by simp, fun q hq => ?_, h5⟩
    · have h3 := h2 p
      have hwt : u.waitTags p = [w.tag] := by rw [← hp]; exact LockUnit.waitTags_of_mem h hm
      rw [hwt, List.append_nil, answerTags_append, answerTags_cons, if_pos rfl] at h3
      have h4 := h3.length_eq
      simp only [List.length_cons, List.length_nil, List.length_append] at h4
      exact List.length_eq_zero_iff.1 (by omega)
    · have h3 := h2 q
      rw [List.append_nil, answerTags_append, answerTags_cons, if_neg (fun e => hq e.symm), List.nil_append,
        ← answerTags_append] at h3
      exact h3

/-! ### Operations of a port -/

/-- An operation of port `p` under `tag`: that tag and those of the waits that end are answered, or wait. -/
def LockUnit.OpLedger (u : LockUnit) (p : PortId) (tag : Tag) (e : LockEffect) : Prop :=
  u.WaitLaw → e.unit.WaitLaw ∧
    (∀ q, List.Perm (u.waitTags q ++ if q = p then [tag] else []) (e.unit.waitTags q ++ answerTags e.answers q)) ∧
    ∀ q, q ≠ p → u.wait q = none → u.held q = [] → e.unit.wait q = none ∧ e.unit.held q = []

theorem LockUnit.Ledger.answered {u v : LockUnit} {as : List Answer} {p : PortId} {tag : Tag} {word : Word}
    {fs : List FaultInfo} (h : u.Ledger v as) :
    u.OpLedger p tag { unit := v, answers := ⟨p, tag, word⟩ :: as, faults := fs } := by
  intro hu
  obtain ⟨h1, h2, h3⟩ := h hu
  refine ⟨h1, fun q => ?_, fun q _ => h3 q⟩
  dsimp only
  rw [answerTags_cons]
  by_cases hq : q = p
  · subst hq
    simp only [if_true]
    exact ((h2 q).append_right _).trans (by
      rw [List.append_assoc]
      exact List.Perm.append_left _ List.perm_append_comm)
  · have hq' : ¬p = q := fun e => hq e.symm
    simpa [hq, hq'] using h2 q

theorem LockUnit.undefinedAnswer_ledger (u : LockUnit) (p : PortId) (op : LockOp) (m : Mode) :
    u.OpLedger p op.tag (u.undefinedAnswer p op m) := (LockUnit.Ledger.refl u).answered

/-- A grant at once changes no queue (R18). -/
theorem LockUnit.grant_waits (u : LockUnit) (l : LockId) (p : PortId) (m : Mode) :
    (∀ k, ((u.grant l p m).lock k).waiters = (u.lock k).waiters) ∧ (∀ q, (u.grant l p m).wait q = u.wait q) ∧
      ∀ q, q ≠ p → (u.grant l p m).held q = u.held q := by
  refine ⟨fun k => ?_, fun _ => rfl, fun q hq => by simp [LockUnit.grant, hq]⟩
  by_cases hk : k = l
  · subst hk; simp [LockUnit.grant, LockRecord.grant]
  · simp [LockUnit.grant, hk]

/-- ACQUIRE-x and TRY-x (R15 to R18, R30). -/
theorem LockUnit.seek_ledger (u : LockUnit) (p : PortId) (op : LockOp) (m : Mode) (tryOnly : Bool) (limit : BitVec 16) :
    u.OpLedger p op.tag (u.seek p op m tryOnly limit) := by
  rw [LockUnit.seek]
  split
  · exact LockUnit.undefinedAnswer_ledger u p op m
  · rename_i l _
    split
    · exact (LockUnit.Ledger.refl u).answered
    · rename_i hr
      split
      · obtain ⟨h1, h2, h3⟩ := LockUnit.grant_waits u l p m
        intro hu
        have hv : (u.grant l p m).WaitLaw :=
          ⟨fun q k => by rw [h2, h1]; exact hu.1 q k, fun k => by rw [h1]; exact hu.2 k⟩
        have ht : ∀ q, (u.grant l p m).waitTags q = u.waitTags q := fun q =>
          LockUnit.waitTags_congr (h2 q) fun k _ => by simp [LockUnit.waiterOf, h1]
        refine ⟨hv, fun q => ?_, fun q hq a b => ⟨(h2 q).trans a, (h3 q hq).trans b⟩⟩
        dsimp only
        rw [ht, answerTags_cons]
        by_cases hq : q = p
        · subst hq; simp
        · have hq' : ¬p = q := fun e => hq e.symm
          simp [hq, hq']
      · split
        · exact (LockUnit.Ledger.refl u).answered
        · rename_i htry
          intro hu
          have hwait : u.wait p = none := by
            have ht : tryOnly = false := by simpa using htry
            subst ht
            by_contra hc
            have hs : (u.wait p).isSome = true := Option.ne_none_iff_isSome.1 hc
            rw [LockUnit.refusal] at hr
            split at hr
            · cases hr
            · split at hr
              · cases hr
              · cases hr
          have hno : ∀ k, ∀ w ∈ (u.lock k).waiters, w.port ≠ p := by
            intro k w hw e
            have h1 := (hu.1 p k).2 ⟨w, hw, e⟩
            rw [hwait] at h1
            cases h1
          have hlk : ∀ k, ((u.joinQueue l p op.tag m limit).lock k).waiters = if k = l then
              (u.lock l).waiters ++ [{ port := p, tag := op.tag, mode := m, remaining := limit, expired := false }]
              else (u.lock k).waiters := by
            intro k
            by_cases hk : k = l
            · subst hk; simp [LockUnit.joinQueue]
            · simp [LockUnit.joinQueue, hk]
          have hwt : ∀ q, (u.joinQueue l p op.tag m limit).wait q = if q = p then some l else u.wait q := by
            intro q
            simp [LockUnit.joinQueue, LockUnit.wait_setWait]
          refine ⟨⟨fun q k => ?_, fun k => ?_⟩, fun q => ?_, fun q hq a b => ⟨?_, b⟩⟩
          · dsimp only
            rw [hwt, hlk]
            by_cases hk : k = l <;> by_cases hq : q = p
            · subst hk hq; simp
            · have hq' : ¬p = q := fun e => hq e.symm
              subst hk; simp [hq, hq', hu.1]
            · have hk' : ¬l = k := fun e => hk e.symm
              subst hq
              simp only [hk, if_true, if_false, Option.some.injEq, hk', false_iff]
              rintro ⟨w, hw, e⟩
              exact hno k w hw e
            · simp [hk, hq, hu.1]
          · dsimp only
            rw [hlk]
            split
            · rw [List.map_append, List.nodup_append]
              refine ⟨hu.2 l, by simp, ?_⟩
              rintro a ha b hb
              rw [List.mem_map] at ha
              obtain ⟨w, hw, rfl⟩ := ha
              rw [List.map_cons, List.map_nil, List.mem_singleton] at hb
              subst hb
              exact hno l w hw
            · exact hu.2 k
          · dsimp only
            rw [answerTags_nil, List.append_nil]
            by_cases hq : q = p
            · subst hq
              have h1 : u.waitTags q = [] := LockUnit.waitTags_of_none hwait
              have h2 : (u.lock l).waiters.find? (fun w => w.port == q) = none := by
                rw [List.find?_eq_none]
                intro w hw e
                exact hno l w hw (by simpa using e)
              have h3 : (u.joinQueue l q op.tag m limit).waitTags q = [op.tag] := by
                simp [LockUnit.waitTags, hwt, LockUnit.waiterOf, hlk, List.find?_append, h2]
              simp [h1, h3]
            · have h3 : (u.joinQueue l p op.tag m limit).waitTags q = u.waitTags q := by
                refine LockUnit.waitTags_congr (by simp [hwt, hq]) fun k _ => ?_
                have hq' : ¬p = q := fun e => hq e.symm
                by_cases hk : k = l
                · subst hk; simp [LockUnit.waiterOf, hlk, List.find?_append, hq']
                · simp [LockUnit.waiterOf, hlk, hk]
              simp [hq, h3]
          · dsimp only
            rw [hwt, if_neg hq]
            exact a

theorem LockUnit.giveBack_ledger (u : LockUnit) (p : PortId) (tag : Tag) (e : HoldEntry) :
    u.OpLedger p tag (u.giveBack p tag e) := by
  have h1 : u.Ledger (u.dropEntry p e.lock) [] := .setHeld _ _ _ fun h => by simp [h]
  rw [LockUnit.giveBack]
  dsimp only
  split
  · exact h1.answered
  · split
    · exact (h1.trans (LockUnit.leaveShared_ledger _ e.lock p)).answered
    · exact (h1.trans (LockUnit.emptySettle_ledger _ e.lock _)).answered

/-- RELEASE (R20 to R22). -/
theorem LockUnit.release_ledger (u : LockUnit) (p : PortId) (op : LockOp) : u.OpLedger p op.tag (u.release p op) := by
  rw [LockUnit.release]
  split
  · exact LockUnit.undefinedAnswer_ledger u p op _
  · split
    · exact (LockUnit.Ledger.refl u).answered
    · exact LockUnit.giveBack_ledger u p op.tag _

/-- RELEASE-LATEST (R23). -/
theorem LockUnit.releaseLatest_ledger (u : LockUnit) (p : PortId) (op : LockOp) :
    u.OpLedger p op.tag (u.releaseLatest p op) := by
  rw [LockUnit.releaseLatest]
  split
  · exact (LockUnit.Ledger.refl u).answered
  · exact LockUnit.giveBack_ledger u p op.tag _

/-- INSPECT (R19). -/
theorem LockUnit.inspect_ledger (u : LockUnit) (p : PortId) (op : LockOp) : u.OpLedger p op.tag (u.inspect p op) := by
  rw [LockUnit.inspect]
  split
  · exact (LockUnit.Ledger.refl u).answered
  · exact (LockUnit.Ledger.refl u).answered

/-- WITHDRAW (R24, R40). -/
theorem LockUnit.withdraw_ledger (u : LockUnit) (p : PortId) (op : LockOp) : u.OpLedger p op.tag (u.withdraw p op) := by
  rw [LockUnit.withdraw]
  split
  · exact LockUnit.undefinedAnswer_ledger u p op _
  · rename_i l _
    split
    · exact (LockUnit.Ledger.refl u).answered
    · rename_i w hw
      have hw' : u.waiterOf l p = some w := by
        split at hw
        · exact hw
        · cases hw
      have h := LockUnit.removeWaiter_ledger u l p hw'
        (a := { port := p, tag := w.tag, word := u.wordFor l .withdrawn w.mode }) ⟨rfl, rfl⟩
      intro hu
      obtain ⟨h1, h2, h3⟩ := h.answered (p := p) (tag := op.tag) (word := u.wordFor l .withdrawn w.mode) (fs := []) hu
      refine ⟨h1, fun q => (h2 q).trans ?_, h3⟩
      refine List.Perm.append_left _ ?_
      simp only [answerTags_cons]
      by_cases hq : p = q
      · simp only [hq, if_true]
        exact List.Perm.swap _ _ _
      · simp [hq]

/-- A wrong-direction access (R13). -/
theorem LockUnit.misuse_ledger (u : LockUnit) (p : PortId) (op : LockOp) : u.OpLedger p op.tag (u.misuse p op) :=
  (LockUnit.Ledger.refl u).answered

/-- Every operation taken at the lock unit. -/
theorem State.slotEffect_ledger (s : State) (p : PortId) (k : LockOpKind) (op : LockOp) :
    s.lockUnit.OpLedger p op.tag (s.slotEffect p k op) := by
  cases k
  · exact LockUnit.seek_ledger _ p op _ _ _
  · exact LockUnit.seek_ledger _ p op _ _ _
  · exact LockUnit.seek_ledger _ p op _ _ _
  · exact LockUnit.seek_ledger _ p op _ _ _
  · exact LockUnit.inspect_ledger _ p op
  · exact LockUnit.release_ledger _ p op
  · exact LockUnit.releaseLatest_ledger _ p op
  · exact LockUnit.withdraw_ledger _ p op
  · exact LockUnit.misuse_ledger _ p op

end Sys2Proof.Machine
end

