-- ==== Sys2Proof/Tests/Slice0.lean ====
section
/-! SUPPORT. The model's own tests: ill-formed commands are refused, each command does one thing the manual says on a small
state, and every statement's hypotheses are met by a concrete state. -/

namespace Sys2Proof.Tests
open Sys2Proof.Machine

/-! ### Small states -/

/-- The state after a command. -/
def after (c : Instr) (s : State) : State :=
  match exec c s with
  | .next t => t
  | .fault _ => s
  | .refused _ => s

/-- RESET# low. -/
def low : State := { State.reset with resetLow := true }

/-- Port 0 replaced. -/
def atPort (r : PortRecord) : State := State.reset.setPort 0 r

/-- Port 0 in a link state. -/
def linked (l : LinkState) : State := atPort { PortRecord.powerOn with link := l }

/-- An ONLINE port with tag 3 outstanding. -/
def busyPort : PortRecord := { PortRecord.powerOn with link := .online, outstanding := 8 }

/-- A lock record replaced. -/
def withLock (l : LockId) (r : LockRecord) (s : State) : State := s.setUnit (s.lockUnit.setLock l r)

/-- A hold list replaced. -/
def holding (p : PortId) (es : List HoldEntry) (s : State) : State := s.setUnit (s.lockUnit.setHeld p es)

/-- A port waits at a lock. -/
def waiting (p : PortId) (l : LockId) (s : State) : State := s.setUnit (s.lockUnit.setWait p (some l))

/-- Port 0 has handed on an operation of kind `k` for lock number `n`, under tag 3. -/
def offering (k : LockOpKind) (n : Nat) (s : State) : State :=
  s.setPort 0 { busyPort with handed := some ⟨k, 3, n, 0, 0⟩ }

/-- The same operation as data. -/
def opOf (k : LockOpKind) (n : Nat) : LockOp := ⟨k, 3, n, 0, 0⟩

/-- A FREE lock of level 2 with lease 5. -/
def freeLock : LockRecord :=
  { LockRecord.powerOn with state := .free, params := some ⟨2, 5, .report, .release⟩ }

/-- EXCLUSIVE, held by `p`. -/
def exclusiveLock (p : PortId) : LockRecord :=
  { freeLock with state := .exclusive, holders := [⟨p, .exclusive⟩], generation := 7 }

/-- SHARED, held by `ps`. -/
def sharedLock (ps : List PortId) : LockRecord :=
  { freeLock with state := .shared, holders := ps.map (fun p => ⟨p, .shared⟩), generation := 7 }

/-- A live entry for lock `l`. -/
def live (l : LockId) (m : Mode) : HoldEntry := ⟨l, m, 7, false, false⟩

/-- A waiter record of port `p`. -/
def waiter (p : PortId) (m : Mode) : Waiter := ⟨p, 3, m, 4, false⟩

/-- Port 0 holds lock 63 exclusively. -/
def held : State := holding 0 [live 63 .exclusive] (withLock 63 (exclusiveLock 0) State.reset)

/-- Port 0 shares lock 63 with the ports `ps`. -/
def shared (ps : List PortId) : State := holding 0 [live 63 .shared] (withLock 63 (sharedLock (0 :: ps)) State.reset)

/-- Port 0 waits at lock 63, which port 1 holds. -/
def queued (expired : Bool) : State :=
  waiting 0 63 (withLock 63 { exclusiveLock 1 with waiters := [{ waiter 0 .exclusive with expired := expired }] } State.reset)

/-- Port 0 heads the queue of lock 63, which port 1 shares. -/
def headShared (expired : Bool) : State :=
  waiting 0 63 (withLock 63 { sharedLock [1] with waiters := [{ waiter 0 .exclusive with expired := expired }] } State.reset)

/-- Window 0 ENABLED on pages 1 and 2, with a kind. -/
def mapped (k : WindowKind) (s : State) : State := s.setWindow 0 (.enabled ⟨1, 2, k⟩)

/-- A 4-byte request at an address. -/
def request (k : ReqKind) (a : Nat) : Request := ⟨3, k, 4, BitVec.ofNat 32 a, []⟩

/-- Port 0 with one request in its queue, classified. -/
def headed (k : ReqKind) (c : HeadClass) (s : State) : State :=
  s.setPort 0 { busyPort with queue := [request k 0], headClass := some c }

/-- The slot holds the head of port 0. -/
def chosen (s : State) : State := { s with arbiter := { s.arbiter with slot := .chosen 0 } }

/-- One write or read of port 0 in flight. -/
def flying (k : ReqKind) (g : Option LockId) (s : State) : State :=
  { s.setPort 0 { busyPort with flight := 1, writeFlight := if k = .write then 1 else 0 } with
    memPort := { s.memPort with table := [⟨0, some 3, k, 4, 0, g⟩] } }

/-- A RESET_PORT of port 0 is IN_PROGRESS. -/
def inProgress (s : State) : State := { s with supervisor := { s.supervisor with command := .inProgress 0 } }

/-- One report of the lock unit waits. -/
def reported (fs : List FaultInfo) (s : State) : State := { s with reports := [⟨.lockUnit, fs⟩] }

/-- `n` records in the log. -/
def logged (n : Nat) (s : State) : State :=
  { s with faultUnit := { s.faultUnit with log := List.replicate n ⟨{ cls := .link }, 0, false⟩ } }

/-- One tick claim waits at lock 63. -/
def claimed (s : State) : State := { s with clock := { s.clock with claims := s.clock.claims.set 63 1 } }

/-- The LINK class is pending. -/
def pendingLink : State :=
  { State.reset with faultUnit := { State.reset.faultUnit with pendingClasses := FaultClass.link.bit } }

/-- The status and data of the last result. -/
def answer (s : State) : Status × List Byte := (s.supervisor.result.status, s.supervisor.result.data)

/-! ### Ill-formed commands -/

theorem smoke_request_length : Instr.wf (.request 0 2 0 0 0 [1, 2, 3]) = false := by decide
theorem smoke_read_with_data : Instr.wf (.request 0 1 0 4 0 [1]) = false := by decide
theorem smoke_request_good : Instr.wf (.request 0 2 15 0 0 [1, 2, 3, 4]) = true := by decide
theorem smoke_no_byte : Instr.wf (.badCommandFrame []) = false := by decide
theorem smoke_good_form : Instr.wf (.badCommandFrame [0x60, 0x00]) = false := by decide
theorem smoke_bad_form : Instr.wf (.badCommandFrame [0x60, 0x01, 0x00]) = true := by decide

/-! ### Bytes written out from the manual -/

/-- The check code over the nine digits of ASCII, computed by hand from R118's polynomial and starting value. -/
theorem test_crc8 : crc8 [0x31, 0x32, 0x33, 0x34, 0x35, 0x36, 0x37, 0x38, 0x39] = 0xF4 := by decide +kernel
theorem test_open_frame : linkFrame 2 [0x11, 0x77] = .openFrame 2 := by decide
theorem test_bad_frame : linkFrame 2 [0x11, 0x76] = .badFrame 2 := by decide
theorem test_set_clock_frame : commandFrame [0x01, 0x02, 0xE8, 0x03] = .setClock 1000 := by decide
theorem test_window_frame : commandFrame [0x10, 0x0D, 15, 1, 0, 0, 0, 2, 0, 0, 0, 2, 63, 1, 2] =
    .defineWindow 15 1 2 2 63 1 2 := by decide
theorem test_result_word : resultWord .granted 63 .shared 0x1234 true = 0xFF011234 := by decide
theorem test_inspect_word : inspectWord { sharedLock [0, 1] with taint := true } 1 = 0x2A130007 := by decide
theorem test_no_table_word : decodeTableWord 8 1 = none := by decide

/-! ### One step of each command -/

theorem test_powerOn : (after (.powerOn true 5) low).i2cAddress = 0x5D := by decide
theorem test_resetAssert : (after (.resetAssert 0) (linked .online)).resetLow = true := by decide
theorem test_resetRelease : (after (.resetRelease 7) low).resetLow = false := by decide
theorem test_openFrame : ((after (.openFrame 0) State.reset).port 0).sendList = [.notice .openAck] := by decide
theorem test_closeFrame : ((after (.closeFrame 0) (linked .online)).port 0).link = .resetting := by decide
theorem test_request_accepted :
    ((after (.request 0 1 15 0 4 []) (linked .online)).port 0).headClass = some .plain := by decide
theorem test_request_tag_in_use : ((after (.request 0 1 3 0 4 []) (atPort busyPort)).port 0).sendList =
    [.notice (.protocol 3 .tagInUse)] := by decide
theorem test_badFrame : ((after (.badFrame 0) (linked .online)).port 0).badCount = 1 := by decide
theorem test_linkSilence : (after (.linkSilence 0) (linked .online)).reports =
    [⟨.port 0, [{ cls := .link, port := some 0 }]⟩] := by decide
theorem test_frameSent : ((after (.frameSent 0)
    (atPort { busyPort with sendList := [.response 3 .ok []] })).port 0).outstanding = 0 := by decide
theorem test_acquireExclusive :
    ((after (.acquireExclusive 0) (offering .acquireExclusive 63 (withLock 63 freeLock State.reset))).port 0).sendList =
      [.response 3 .ok [0x01, 0x00, 0x01, 0x3F]] := by decide
theorem test_acquireShared :
    ((after (.acquireShared 0) (offering .acquireShared 63
      (withLock 63 (exclusiveLock 1) State.reset))).lockUnit.wait 0) = some 63 := by decide
theorem test_tryExclusive :
    ((after (.tryExclusive 0) (offering .tryExclusive 63 (withLock 63 (exclusiveLock 1) State.reset))).port 0).sendList =
      [.response 3 .ok [0x07, 0x00, 0x02, 0x3F]] := by decide
theorem test_tryShared :
    ((after (.tryShared 0) (offering .tryShared 63
      (withLock 63 (sharedLock [1]) State.reset))).lockUnit.lock 63).generation = 8 := by decide
theorem test_inspect :
    ((after (.inspect 0) (offering .inspect 63 held)).port 0).sendList =
      [.response 3 .ok [0x07, 0x00, 0x0A, 0x24]] := by decide
theorem test_release :
    ((after (.release 0) (offering .release 63 held)).lockUnit.lock 63).state = .free := by decide
theorem test_releaseLatest :
    ((after (.releaseLatest 0) (offering .releaseLatest 5 held)).lockUnit.held 0) = [] := by decide
theorem test_withdraw :
    ((after (.withdraw 0) (offering .withdraw 63 (queued false))).lockUnit.lock 63).waiters = [] := by decide
theorem test_misuseAccess :
    ((after (.misuseAccess 0) (offering .misuse 64 State.reset)).port 0).sendList =
      [.response 3 .ok [0x00, 0x00, 0x0B, 0x00]] := by decide
theorem test_lockClockTick : (after .lockClockTick State.reset).clock.claims[63] = 1 := by decide
/-- The counts in the log after some commands, from a read in flight. -/
def countsAfter (cs : List Instr) : List (BitVec 32) :=
  ((cs.foldl (fun s c => after c s) (flying .read none State.reset)).faultUnit.log).map FaultRecord.tick
/-- R164: a tick and a waiting report are taken in either order; the tick takes no report, nor does a status read. -/
theorem test_tickEitherOrder :
    countsAfter [.memCompletion 0 .fail [], .faultReport .memPort, .lockClockTick] = [0] ∧
    countsAfter [.memCompletion 0 .fail [], .readStatus, .lockClockTick, .faultReport .memPort] = [1] := by decide
theorem test_tickClaim : ((after (.tickClaim 63)
    (claimed (queued false))).lockUnit.lock 63).waiters.map Waiter.remaining = [3] := by decide
theorem test_leaseExpiry : ((after (.leaseExpiry 63)
    (withLock 63 { exclusiveLock 0 with leaseRunning := true } State.reset)).lockUnit.lock 63).leaseReported = true := by
  decide
theorem test_waitTimeout : ((after (.waitTimeout 63 0) (queued true)).lockUnit.wait 0) = none := by decide
theorem test_issueDecision :
    (after .issueDecision (headed .read .plain State.reset)).arbiter.slot = .chosen 0 := by decide
theorem test_issue : ((after .issue (chosen (headed .write .plain State.reset))).port 0).sendList =
    [.response 3 .ok []] := by decide
theorem test_incrementClaim : ((after .incrementClaim
    (chosen (headed .write (.guardAuthorized 63 0 .drop) held))).lockUnit.lock 63).guardFlight = 1 := by decide
theorem test_issueSlotFreed : (after .issueSlotFreed
    { State.reset with arbiter := { State.reset.arbiter with slot := .sending ⟨.read, 4, 0, []⟩ } }).arbiter.slot =
      .free := by decide
theorem test_memCompletion : ((after (.memCompletion 0 .ok [1, 2, 3, 4]) (flying .read none State.reset)).port 0).sendList =
    [.response 3 .ok [1, 2, 3, 4]] := by decide
theorem test_memCompletion_fail : ((after (.memCompletion 0 .fail [])
    (flying .write (some 63) held)).lockUnit.lock 63).taint = true := by decide
theorem test_portGoneClaim : ((after (.portGoneClaim 0)
    (held.setPort 0 { PortRecord.powerOn with link := .resetting, claimDue := true })).lockUnit.lock 63).taint = true := by
  decide
/-- The claim passes a WITHDRAW handed on before the reset: the WITHDRAW finds no wait, and its word is discarded (R45). -/
theorem test_claim_before_withdraw :
    let s := (queued false).setPort 0 { PortRecord.powerOn with
      link := .resetting, claimDue := true, handed := some (opOf .withdraw 63), stale := true }
    let t := after (.withdraw 0) (after (.openFrame 0) (after (.portGoneClaim 0) s))
    (t.lockUnit.lock 63).waiters = [] ∧ (t.port 0).handed = none ∧ (t.port 0).sendList = [.notice .openAck] := by decide
/-- The claim waits behind a release handed on before the reset (R63). -/
theorem test_claim_behind_release :
    ((after (.portGoneClaim 0) (held.setPort 0 { PortRecord.powerOn with
      link := .resetting, claimDue := true, handed := some (opOf .release 63), stale := true })).port 0).claimDue = true := by
  decide
theorem test_faultReport : (after (.faultReport .lockUnit)
    (reported [{ cls := .order }] (logged 16 State.reset))).faultUnit.log.getLast?.map FaultRecord.more = some true := by
  decide
theorem test_read_own_address : State.reset.readResult 0x58 3 = some [0x0B, 0, 0] := by decide
theorem test_read_other_address : State.reset.readResult 0x59 3 = none := by decide
theorem test_read_reset_low : low.readResult 0x58 3 = none := by decide
theorem test_write_own_address : State.reset.writtenCommand 0x58 [0x60, 0] = some .readStatus := by decide
theorem test_badCommandFrame : answer (after (.badCommandFrame [0x99]) State.reset) = (.badParam, []) := by decide
theorem test_commandWriteNak :
    (after .commandWriteNak (inProgress (State.reset.acknowledge true))).supervisor.acked = false := by decide
theorem test_setClock : (after (.setClock 1000) State.reset).clock.nextPeriod = 1000 := by decide
theorem test_setPort : ((after (.setPort 5 0 1 9) State.reset).port 5).waitLimit = 9 := by decide
theorem test_setWeight : answer (after (.setWeight 9) State.reset) = (.badParam, []) := by decide
theorem test_defineWindow : (after (.defineWindow 15 1048575 1 3 255 255 255) State.reset).window 15 =
    .defined ⟨1048575, 1, .block⟩ := by decide
theorem test_enableWindow : answer (after (.enableWindow 1)
    ((mapped .block State.reset).setWindow 1 (.defined ⟨2, 1, .block⟩))) = (.overlap, [0]) := by decide
theorem test_disableWindow : answer (after (.disableWindow 0) (mapped (.lock 0) held)) = (.inUse, [63]) := by decide
theorem test_readWindow : answer (after (.readWindow 0) (mapped (.guard 63 .pass .drop) State.reset)) =
    (.done, [0, 2, 1, 0, 0, 0, 2, 0, 0, 0, 2, 63, 1, 1]) := by decide
theorem test_defineLock : ((after (.defineLock 63 15 0 1 1) State.reset).lockUnit.lock 63).params =
    some ⟨15, 0, .revoke, .breakLock⟩ := by decide
theorem test_undefineLock : answer (after (.undefineLock 63) held) = (.notFree, []) := by decide
theorem test_forceRelease : answer (after (.forceRelease 63) held) = (.done, [1, 1]) := by decide
theorem test_repairLock : ((after (.repairLock 63)
    (withLock 63 { freeLock with state := .broken } State.reset)).lockUnit.lock 63).state = .free := by decide
theorem test_resetPort : answer (after (.resetPort 0) (linked .online)) = (.inProgress, []) := by decide
theorem test_snapshotLock : (after (.snapshotLock 63) held).supervisor.snapshot.map Snapshot.bytes =
    some [1, 63, 2, 2, 5, 0, 0, 0, 7, 0, 0, 1, 0, 0, 0] := by decide
theorem test_snapshotPort : (after (.snapshotPort 0) held).supervisor.snapshot.map Snapshot.bytes =
    some [2, 0, 4, 0, 0, 0, 0, 0, 0, 0, 0, 1, 0xFF, 0, 1, 0, 63, 0, 7, 0] := by decide
theorem test_readSnapshot : answer (after .readSnapshot State.reset) = (.empty, []) := by decide
theorem test_readFault : answer (after .readFault (logged 1 State.reset)) =
    (.done, [12, 0, 0, 0, 0, 0, 0, 0, 0, 0, 0, 0, 0, 0, 0, 0]) := by decide
theorem test_readAlert : answer (after .readAlert (logged 16 State.reset)) = (.done, [0, 0, 0, 0, 16]) := by decide
theorem test_setAlertMask : (after (.setAlertMask 0xF800) pendingLink).faultUnit.alert = true := by decide
theorem test_clearAlert : (after (.clearAlert 0xFFFF) pendingLink).faultUnit.pendingClasses = 0 := by decide
theorem test_readStatus : answer (after .readStatus (linked .online)) =
    (.done, [1, 0, 0, 0, 0, 0, 0, 0, 0, 0, 0, 0]) := by decide

/-! ### Concrete states that meet the hypotheses of the statements, clause by clause -/

/-- The supervisor port takes a command in any state that differs from reset outside RESET# and the command state. -/
theorem ready_of {s : State} (h : s.resetLow = false) (h' : s.supervisor.command = .idle) : s.ready :=
  ⟨h, fun p e => by rw [h'] at e; cases e⟩

/-- ResetCommandsRestorePowerOn, ResetLowIgnoresEverything. -/
theorem witness_low : low.resetLow = true ∧ isResetCommand (.openFrame 0) = false ∧
    isResetCommand (.setWeight 1) = false ∧ isSupervisorWrite (.setWeight 1) = true := by decide

/-- OpenByLinkState, CloseAndSilence, RequestAtOfflinePort. -/
theorem witness_link_states : State.reset.resetLow = false ∧ (State.reset.port 0).link = .offline ∧
    (State.reset.port 0).enabled = true ∧
    ((atPort { PortRecord.powerOn with enabled := false }).port 0).enabled = false ∧
    ((linked .online).port 0).link = .online ∧ ((linked .resetting).port 0).link = .resetting := by decide

/-- BadFrameIsCounted: the sixth and the seventh bad frame before this one, and 7 and 8 NOTICEs unsent. -/
theorem witness_bad_frames :
    ((atPort { busyPort with badCount := 6 }).port 0).badCount + 1 < 8 ∧
    8 ≤ ((atPort { busyPort with badCount := 7 }).port 0).badCount + 1 ∧
    (List.replicate 7 (Frame.notice .openAck)).countP Frame.isNotice < 8 ∧
    ¬(List.replicate 8 (Frame.notice .openAck)).countP Frame.isNotice < 8 := by decide

/-- RequestAtOfflinePort: a good length. -/
theorem witness_request_offline : requestLengthGood 1 4 [] = true ∧ (State.reset.port 0).link = .offline := by decide

/-- RequestRefusedInOrder, clause by clause: length, RESETTING, kind, size, alignment, tag. -/
theorem witness_request_refused :
    requestLengthGood 2 0 [1, 2, 3] = false ∧
    (requestLengthGood 1 0 [] = true ∧ ((linked .resetting).port 0).link = .resetting) ∧
    (requestLengthGood 3 0 [] = true ∧ (3#4 ≠ 1#4 ∧ 3#4 ≠ 2#4)) ∧
    (requestLengthGood 2 5 [] = true ∧ 4 < (5#8).toNat) ∧
    (sizeBytes 4 = some 64 ∧ (32#32).toNat % 64 ≠ 0) ∧
    (sizeBytes 0 = some 4 ∧ (4#32).toNat % 4 = 0 ∧ ((atPort busyPort).port 0).outstanding.getLsbD 3 = true) := by decide

/-- RequestAccepted: a read and a write of the largest size at tag 15; behind a waiting head; behind an operation. -/
theorem witness_request_accepted : ((linked .online).port 0).link = .online ∧ sizeBytes 4 = some 64 ∧
    (64#32).toNat % 64 = 0 ∧ (List.replicate 64 (0 : Byte)).length = 64 ∧
    ((linked .online).port 0).outstanding.getLsbD 15 = false ∧
    ((headed .read .plain State.reset).port 0).headClass ≠ none ∧
    ((offering .inspect 0 State.reset).port 0).handed ≠ none := by decide

/-- The window law of a state with one ENABLED window of two pages. -/
theorem witness_window_law (k : WindowKind) (s : State) (hw : s.windows = State.reset.windows)
    (hk : ∀ l wp rp, k = .guard l wp rp → (s.lockUnit.lock l).state ≠ .undefined) : (mapped k s).WindowLaw := by
  have h : ∀ v, (mapped k s).window v = if v = 0 then .enabled ⟨1, 2, k⟩ else .undefined := by
    intro v
    rw [mapped, State.window_setWindow]
    split
    · rfl
    · simp [State.window, hw, State.reset]
  refine ⟨fun v w a b hvw hv hw' => ?_, fun w d l wp rp hw' hd => ?_, fun w d hw' => ?_⟩
  · rw [h] at hv hw'
    split at hv
    · split at hw'
      · exact absurd (‹v = 0›.trans ‹w = 0›.symm) hvw
      · cases hw'
    · cases hv
  · rw [h] at hw'
    split at hw'
    · cases hw'; exact hk l wp rp hd
    · cases hw'
  · rw [h] at hw'
    split at hw'
    · rcases hw' with hw' | hw' <;> cases hw'
      exact ⟨Nat.succ_le_succ (Nat.zero_le 1), by norm_num⟩
    · rcases hw' with hw' | hw' <;> cases hw'

/-- HeadHandlingOfAPort: each classification, an empty queue, a waiting head, an operation at the lock unit, and a release
with and without writes in flight. -/
theorem witness_head_handling :
    State.reset.classify 0 (request .read 0) = .plain ∧
    (mapped (.guard 63 .drop .drop) held).classify 0 (request .write 4096) = .guardAuthorized 63 0 .drop ∧
    (∃ f, (mapped (.guard 63 .pass .pass) held).classify 1 (request .read 4096) = .guardPassed f) ∧
    (∃ f, (mapped .block held).classify 0 (request .read 12287) = .blocked f) ∧
    (mapped (.lock 0) held).classify 0 (request .write 4096) = .misuse ⟨.misuse, 3, 0, 0, 4096⟩ ∧
    (mapped (.lock 0) held).classify 0 (request .write 4116) = .lockOp ⟨.release, 3, 0, 0, 4116⟩ ∧
    ((linked .online).port 0).queue = [] ∧ ((headed .read .plain State.reset).port 0).headClass ≠ none ∧
    ((offering .inspect 0 State.reset).port 0).handed ≠ none ∧
    ((flying .write none State.reset).port 0).writeFlight ≠ 0 ∧ ((flying .read none State.reset).port 0).writeFlight = 0 := by
  refine ⟨by decide, by decide, ⟨_, rfl⟩, ⟨_, rfl⟩, by decide⟩

/-- ClassificationByWindow: no ENABLED window; the first byte and the last of a range; locks 63 and 64; each direction. -/
theorem witness_classification :
    (∀ w d, State.reset.window w ≠ .enabled d) ∧ (mapped .block State.reset).WindowLaw ∧
    (mapped (.lock 63) State.reset).WindowLaw ∧
    (4096 * 1 ≤ (request .read 4096).addr.toNat ∧ (request .read 12287).addr.toNat < 4096 * (1 + 2)) ∧
    (63 + ((request .read 4096).addr.toNat - 4096 * 1) / 32 = 63 ∧
      63 + ((request .read 4128).addr.toNat - 4096 * 1) / 32 = 64) ∧
    ({ request .read 4096 with size := 8 } : Request).size ≠ 4 ∧
    (slotOperation ((request .read 4096).addr.toNat % 32)).2 = (request .read 4096).kind ∧
    (slotOperation ((request .read 4116).addr.toNat % 32)).2 ≠ (request .read 4116).kind := by
  refine ⟨fun w d => ?_, witness_window_law _ _ rfl (fun _ _ _ h => by cases h),
    witness_window_law _ _ rfl (fun _ _ _ h => by cases h), by decide⟩
  simp [State.window, State.reset]

/-- GuardCheckTables: the law with lock 63 guarding; a live EXCLUSIVE entry, none, a live SHARED one and a revoked one. -/
theorem witness_guard (wp : WritePolicy) (rp : ReadPolicy) :
    (mapped (.guard 63 wp rp) held).WindowLaw ∧ (mapped (.guard 63 wp rp) held).window 0 = .enabled ⟨1, 2, .guard 63 wp rp⟩ ∧
    (∃ e, (mapped (.guard 63 wp rp) held).lockUnit.entry 0 63 = some e ∧ e.revoked = false ∧ e.mode = .exclusive) ∧
    (mapped (.guard 63 wp rp) held).lockUnit.entry 1 63 = none := by
  refine ⟨witness_window_law _ _ rfl (fun l _ _ h => by cases h; decide), ?_, ⟨live 63 .exclusive, ?_⟩, ?_⟩ <;>
    cases wp <;> cases rp <;> decide

theorem witness_guard_entries :
    (∃ e, (shared [1]).lockUnit.entry 0 63 = some e ∧ e.revoked = false ∧ e.mode ≠ .exclusive) ∧
    (∃ e, (holding 0 [{ live 63 .exclusive with revoked := true }] State.reset).lockUnit.entry 0 63 = some e ∧
      e.revoked = true) :=
  ⟨⟨live 63 .shared, by decide⟩, ⟨{ live 63 .exclusive with revoked := true }, by decide⟩⟩

/-- FrameSentLeavesList: an empty list, a NOTICE, a RESPONSE. -/
theorem witness_frame_sent : ((linked .online).port 0).sendList = [] ∧
    ((atPort { busyPort with sendList := [.notice .close] }).port 0).sendList = [.notice .close] ∧
    ((atPort { busyPort with sendList := [.response 3 .ok []] }).port 0).sendList = [.response 3 .ok []] := by decide

/-- Every operation can be offered, in any lock unit. -/
theorem offers_offering (k : LockOpKind) (n : Nat) (s : State) (h : s.resetLow = false) :
    (offering k n s).offers 0 (opOf k n) := by
  refine ⟨h, ?_⟩
  rw [offering, State.port_setPort_self]
  rfl

/-- UndefinedAndMisusedSlots: number 64, lock 63 UNDEFINED, lock 63 defined. -/
theorem witness_undefined : (offering .inspect 64 State.reset).offers 0 (opOf .inspect 64) ∧
    (∀ l : LockId, l.val = (opOf .inspect 64).number → (State.reset.lockUnit.lock l).state = .undefined) ∧
    (∀ l : LockId, l.val = (opOf .release 63).number → (State.reset.lockUnit.lock l).state = .undefined) ∧
    (opOf .misuse 64).number > 63 ∧ held.lockUnit.names (opOf .misuse 63).number 63 := by
  refine ⟨offers_offering _ _ _ rfl, fun l h => ?_, fun l h => ?_, by decide, ⟨rfl, by decide⟩⟩
  · simp [State.reset, LockUnit.lock, LockRecord.powerOn]
  · simp [State.reset, LockUnit.lock, LockRecord.powerOn]

/-- Eight entries in a hold list. -/
def eight : State := holding 0 [live 0 .shared, live 1 .shared, live 2 .shared, live 3 .shared, live 4 .shared,
  live 5 .shared, live 6 .shared, live 7 .shared] (withLock 63 freeLock State.reset)

/-- AcquisitionRefusedInOrder, check by check: BROKEN, HELD, PENDING (for an ACQUIRE and for a TRY), FULL, ORDER at an equal
level. -/
theorem witness_refused :
    ((withLock 63 { freeLock with state := .broken } State.reset).lockUnit.lock 63).state = .broken ∧
    held.lockUnit.entry 0 63 ≠ none ∧
    ((queued false).lockUnit.entry 0 63 = none ∧ (queued false).lockUnit.waitStands 0 62 false ∧
      (queued false).lockUnit.waitStands 0 63 true) ∧
    (eight.lockUnit.entry 0 63 = none ∧ ¬eight.lockUnit.waitStands 0 63 false ∧ 8 ≤ eight.lockUnit.places 0) ∧
    ((withLock 62 freeLock held).lockUnit.places 0 < 8 ∧ (withLock 62 freeLock held).lockUnit.outOfOrder 0 62) := by
  refine ⟨by decide, by decide, ⟨by decide, ?_, ?_⟩, ⟨by decide, ?_, by decide⟩, by decide, ?_⟩
  · unfold LockUnit.waitStands; decide
  · unfold LockUnit.waitStands; decide
  · unfold LockUnit.waitStands; decide
  · exact ⟨live 63 .exclusive, by decide, by decide⟩

/-- AcquisitionGrantedAtOnce: FREE; SHARED with an empty queue; both for an ACQUIRE at an unused port. -/
theorem witness_granted :
    (withLock 63 freeLock State.reset).lockUnit.passes 0 63 false ∧
    ((withLock 63 freeLock State.reset).lockUnit.lock 63).state = .free ∧
    (withLock 63 (sharedLock [1]) State.reset).lockUnit.passes 0 63 false ∧
    ((withLock 63 (sharedLock [1]) State.reset).lockUnit.lock 63).state = .shared ∧
    ((withLock 63 (sharedLock [1]) State.reset).lockUnit.lock 63).waiters = [] ∧
    (withLock 63 freeLock State.reset).lockUnit.names 63 63 := by
  refine ⟨⟨by decide, by decide, ?_, by decide, ?_⟩, by decide, ⟨by decide, by decide, ?_, by decide, ?_⟩, by decide,
    by decide, ⟨rfl, by decide⟩⟩
  · unfold LockUnit.waitStands; decide
  · rintro - ⟨e, he, -⟩; exact absurd he (by decide +revert)
  · unfold LockUnit.waitStands; decide
  · rintro - ⟨e, he, -⟩; exact absurd he (by decide +revert)

/-- AcquisitionThatMustWait: an EXCLUSIVE lock held by port 1, for an ACQUIRE and for a TRY. -/
theorem witness_must_wait (tryOnly : Bool) :
    (withLock 63 (exclusiveLock 1) State.reset).lockUnit.passes 0 63 tryOnly ∧
    ((withLock 63 (exclusiveLock 1) State.reset).lockUnit.lock 63).state ≠ .free ∧
    ((withLock 63 (exclusiveLock 1) State.reset).lockUnit.lock 63).state ≠ .shared := by
  refine ⟨⟨by decide, by decide, ?_, by decide, ?_⟩, by decide⟩
  · cases tryOnly <;> (unfold LockUnit.waitStands; decide)
  · rintro - ⟨e, he, -⟩; exact absurd he (by decide +revert)

/-- InspectReportsTheRecord, ReleaseWithoutLiveEntry: no entry; a live one; a revoked one. -/
theorem witness_entries : held.lockUnit.names 63 63 ∧ held.lockUnit.entry 1 63 = none ∧
    held.lockUnit.entry 0 63 = some (live 63 .exclusive) ∧
    (holding 0 [{ live 63 .shared with revoked := true }] held).lockUnit.entry 0 63 =
      some { live 63 .shared with revoked := true } := ⟨⟨rfl, by decide⟩, by decide⟩

/-- ReleaseOfSharedHold: another holder stays; the last one leaves an empty queue; the last one leaves a queue. -/
theorem witness_release_shared :
    (shared [1]).lockUnit.entry 0 63 = some (live 63 .shared) ∧ ((shared [1]).lockUnit.lock 63).guardFlight = 0 ∧
    ((shared [1]).lockUnit.lock 63).holders.filter (fun h => h.port != 0) ≠ [] ∧
    ((shared []).lockUnit.lock 63).holders.filter (fun h => h.port != 0) = [] ∧
    ((shared []).lockUnit.lock 63).waiters = [] ∧
    ((withLock 63 { sharedLock [0] with waiters := [waiter 1 .exclusive] } (shared [])).lockUnit.lock 63).waiters ≠ [] := by
  decide

/-- ReleaseOfExclusiveHold: with an empty queue and with a waiter; with and without a loss mark. -/
theorem witness_release_exclusive :
    held.lockUnit.entry 0 63 = some (live 63 .exclusive) ∧ (held.lockUnit.lock 63).guardFlight = 0 ∧
    (held.lockUnit.lock 63).waiters = [] ∧
    ((withLock 63 { exclusiveLock 0 with waiters := [waiter 1 .shared] } held).lockUnit.lock 63).waiters ≠ [] ∧
    (holding 0 [{ live 63 .exclusive with loss := true }] held).lockUnit.entry 0 63 =
      some { live 63 .exclusive with loss := true } := by decide

/-- ReleaseLatestTakesNewest: an empty list, and a newest entry. -/
theorem witness_release_latest : State.reset.lockUnit.held 0 = [] ∧
    held.lockUnit.held 0 = [] ++ [live 63 .exclusive] ∧
    held.lockUnit.entry 0 (live 63 .exclusive).lock = some (live 63 .exclusive) := by decide

/-- WithdrawCancelsTheWait, TimeoutRemovesTheWaiter: no wait; a wait behind an EXCLUSIVE holder; the head of a SHARED lock;
a record whose wait ran out and one whose wait did not. -/
theorem witness_waits : held.lockUnit.wait 0 ≠ some 63 ∧ (queued false).lockUnit.wait 0 = some 63 ∧
    (queued false).lockUnit.waiterOf 63 0 = some (waiter 0 .exclusive) ∧ ¬(queued false).lockUnit.headsShared 63 0 ∧
    (headShared true).lockUnit.headsShared 63 0 ∧
    (queued true).lockUnit.waiterOf 63 0 = some { waiter 0 .exclusive with expired := true } := by
  refine ⟨by decide, by decide, by decide, ?_, ⟨by decide, { waiter 0 .exclusive with expired := true }, [], by decide⟩,
    by decide⟩
  rintro ⟨h, -⟩
  exact absurd h (by decide)

/-- SlotOperationFrame: the nine commands with their kinds; a port that waits at the lock, one that does not. -/
theorem witness_slot_commands : slotCommand (.acquireExclusive 0) = some (0, .acquireExclusive) ∧
    slotCommand (.misuseAccess 0) = some (0, .misuse) ∧ (opOf .misuse 64).kind = .misuse ∧
    (∃ w ∈ ((queued false).lockUnit.lock 63).waiters, w.port = 0) ∧
    (∀ w ∈ ((queued false).lockUnit.lock 63).waiters, w.port ≠ 1) := by decide

/-- GrantsFromTheQueue: an emptied lock with guarded writes, with no waiter, with an EXCLUSIVE and with a SHARED head; a
queue without a leading run and one with a run of two distinct ports. -/
theorem witness_grants :
    ((withLock 63 { freeLock with guardFlight := 1 } State.reset).lockUnit.lock 63).holders = [] ∧
    ((withLock 63 { freeLock with guardFlight := 1 } State.reset).lockUnit.lock 63).guardFlight ≠ 0 ∧
    ((withLock 63 { freeLock with waiters := [waiter 1 .exclusive] } State.reset).lockUnit.lock 63).waiters =
      waiter 1 .exclusive :: [] ∧
    [waiter 1 .exclusive].takeWhile (fun w => w.mode == .shared) = [] ∧
    [waiter 1 .shared, waiter 2 .shared, waiter 3 .exclusive].takeWhile (fun w => w.mode == .shared) =
      [waiter 1 .shared, waiter 2 .shared] ∧
    ([waiter 1 .shared, waiter 2 .shared].map Waiter.port).Nodup := by decide

/-- WordFields, SnapshotBuffer: the largest numbers; six distinct holders. -/
theorem witness_words : (63 : Nat) < 64 ∧ (3 : Nat) < 4 ∧ (sharedLock [0, 1, 2, 3, 4, 5]).holders.length ≤ 6 ∧
    ((sharedLock [0, 1, 2, 3, 4, 5]).holders.map Holder.port).Nodup := by decide

/-- ClockAndWeightSettings: each end of both ranges. -/
theorem witness_settings : State.reset.ready ∧ (1 ≤ (1#16).toNat ∧ (1000#16).toNat ≤ 1000) ∧
    ((0#16).toNat < 1 ∧ 1000 < (1001#16).toNat) ∧ (1 ≤ (1#8).toNat ∧ (8#8).toNat ≤ 8) ∧
    ((0#8).toNat = 0 ∧ 8 < (9#8).toNat) := ⟨ready_of rfl rfl, by decide⟩

/-- TickClaimLowersCounters: no claim; a due lease; a due timeout; none of them. -/
theorem witness_tick_claim : State.reset.clock.claims[63] = 0 ∧
    (((withLock 63 { exclusiveLock 0 with leaseRunning := true } State.reset).lockUnit.lock 63).leaseRunning = true ∧
      ((withLock 63 { exclusiveLock 0 with leaseRunning := true } State.reset).lockUnit.lock 63).leaseRemaining = 0) ∧
    (∃ w ∈ ((queued true).lockUnit.lock 63).waiters, w.expired = true) ∧
    ((claimed (queued false)).clock.claims[63] ≠ 0 ∧ ((claimed (queued false)).lockUnit.lock 63).leaseRunning = false ∧
      ∀ w ∈ ((claimed (queued false)).lockUnit.lock 63).waiters, w.expired = false) := by decide

/-- LeaseExpiryByPolicy: due under each policy, and not due. -/
theorem witness_lease : (exclusiveLock 0).leaseRunning = false ∧
    (({ exclusiveLock 0 with leaseRunning := true } : LockRecord).leaseRemaining = 0 ∧
      (exclusiveLock 0).params = some ⟨2, 5, .report, .release⟩) ∧
    ({ exclusiveLock 0 with params := some ⟨2, 5, .revoke, .release⟩ } : LockRecord).params =
      some ⟨2, 5, .revoke, .release⟩ := by decide

/-- RevocationAndForceRelease: lock numbers 63 and 64, a held lock and a FREE one. -/
theorem witness_force_release : held.ready ∧ 63 < (64#8).toNat ∧ (63 : LockId).val = (63#8).toNat ∧
    (held.lockUnit.lock 63).state = .exclusive ∧ ((shared [1]).lockUnit.lock 63).state = .shared ∧
    (withLock 63 freeLock State.reset).ready ∧
    ((withLock 63 freeLock State.reset).lockUnit.lock 63).state ≠ .exclusive :=
  ⟨ready_of rfl rfl, by decide, by decide, by decide, by decide, ready_of rfl rfl, by decide⟩

/-- ArbiterDecision: nothing eligible; only a FORE port; only a BACK port; both, below and at K. -/
theorem witness_arbiter :
    (∀ p, ¬State.reset.isEligible .fore p) ∧ (headed .read .plain State.reset).isEligible .fore 0 ∧
    FirstFrom 0 ((headed .read .plain State.reset).isEligible .fore) 0 ∧
    (∀ p, ¬(headed .read .plain State.reset).isEligible .back p) ∧
    ((headed .read .plain State.reset).setPort 1
      { busyPort with queue := [request .read 0], headClass := some .plain, cls := .back }).isEligible .back 1 := by
  have h0 : (headed .read .plain State.reset).isEligible .fore 0 := ⟨by decide, ⟨.plain, by decide⟩, by decide⟩
  refine ⟨?_, h0, ⟨0, rfl, h0, ?_⟩, ?_, ⟨by decide, ⟨.plain, by decide⟩, by decide⟩⟩
  · rintro p ⟨-, ⟨h, hh, -⟩, -⟩
    simp [State.reset, State.port, PortRecord.powerOn] at hh
  · intro j hj
    exact absurd hj (by decide +revert)
  · rintro p ⟨hc, -⟩
    by_cases hp : p = 0
    · subst hp; exact absurd hc (by decide)
    · rw [headed, State.port_setPort_ne _ _ hp] at hc
      simp [State.reset, State.port, PortRecord.powerOn] at hc

theorem witness_weight : State.reset.arbiter.foreGrants < State.reset.arbiter.weight ∧
    ({ State.reset.arbiter with foreGrants := 4 } : Arbiter).weight ≤ 4 ∧ State.reset.arbiter.slot = .free ∧
    (chosen State.reset).arbiter.slot ≠ .free := by decide

/-- IssueOfUnguardedHead, IncrementClaimDecides: a chosen head of each class; the entry live, and revoked. -/
theorem witness_issue :
    (chosen (headed .write .plain State.reset)).arbiter.slot = .chosen 0 ∧
    ((chosen (headed .write .plain State.reset)).port 0).queue = request .write 0 :: [] ∧
    ((chosen (headed .read .guardPassed State.reset)).port 0).headClass = some .guardPassed ∧
    ((chosen (headed .write (.guardAuthorized 63 0 .drop) held)).port 0).headClass =
      some (.guardAuthorized 63 0 .drop) ∧
    (chosen (headed .write (.guardAuthorized 63 0 .drop) held)).lockUnit.entry 0 63 = some (live 63 .exclusive) ∧
    (chosen (headed .write (.guardAuthorized 63 0 .pass)
      (holding 0 [{ live 63 .exclusive with revoked := true }] held))).lockUnit.entry 0 63 =
        some { live 63 .exclusive with revoked := true } := by decide

/-- UnguardedCompletions: an empty table, another session; a read; a write that ends the fence, and one that does not. -/
theorem witness_completions :
    State.reset.memPort.table = [] ∧ 1 ≠ State.reset.memPort.session ∧
    (flying .read none State.reset).memPort.table = [⟨0, some 3, .read, 4, 0, none⟩] ∧
    (flying .write none State.reset).memPort.table = [⟨0, some 3, .write, 4, 0, none⟩] ∧
    ((flying .write none State.reset).port 0).writeFlight - 1 = 0 ∧
    ({ busyPort with writeFlight := 1, headClass := some (.heldRelease (opOf .release 63)) } : PortRecord).headClass =
      some (.heldRelease (opOf .release 63)) ∧
    ({ busyPort with writeFlight := 2 } : PortRecord).writeFlight - 1 ≠ 0 ∧
    (∀ op, ((flying .write none State.reset).port 0).headClass ≠ some (.heldRelease op)) := by
  refine ⟨by decide, by decide, by decide, by decide, by decide, by decide, by decide, fun op h => ?_⟩
  simp [flying, busyPort, PortRecord.powerOn] at h

/-- GuardedWriteCompletion: the last counted write of a DRAINING lock, one of two, and one of an EXCLUSIVE lock. -/
theorem witness_guarded :
    (flying .write (some 63) held).memPort.table = [⟨0, some 3, .write, 4, 0, some 63⟩] ∧
    ({ freeLock with state := .draining, guardFlight := 1 } : LockRecord).guardFlight = 1 ∧
    1 < ({ freeLock with state := .draining, guardFlight := 2 } : LockRecord).guardFlight ∧
    ((flying .write (some 63) held).lockUnit.lock 63).state ≠ .draining := by decide

/-- PortGoneClaimAndResetting: no claim; behind a release; past a WITHDRAW; a claim with no wait, with a wait, with the head of a SHARED
lock; RESETTING that is over, with and without a command, and not over. -/
theorem witness_port_gone :
    ((linked .online).port 0).claimDue = false ∧
    ((offering .release 0 State.reset).port 0).handed = some (opOf .release 0) ∧
    ((offering .withdraw 0 State.reset).port 0).handed = some (opOf .withdraw 0) ∧
    ((held.setPort 0 { PortRecord.powerOn with link := .resetting, claimDue := true }).port 0).claimDue = true ∧
    held.lockUnit.wait 0 = none ∧ (queued false).lockUnit.wait 0 = some 63 ∧ (headShared false).lockUnit.wait 0 = some 63 ∧
    (((linked .resetting).port 0).link = .resetting ∧ ((linked .resetting).port 0).flight = 0) ∧
    (inProgress (linked .resetting)).supervisor.command = .inProgress 0 ∧
    (linked .resetting).supervisor.command ≠ .inProgress 0 ∧ ((linked .online).port 0).link ≠ .resetting := by decide

/-- OrphansByPolicy: a revoked entry; a SHARED one with and without other holders; an EXCLUSIVE one under each policy. -/
theorem witness_orphans :
    ({ live 63 .exclusive with revoked := true } : HoldEntry).revoked = true ∧
    ((shared [1]).lockUnit.lock (live 63 .shared).lock).holders.filter (fun h => h.port != 0) ≠ [] ∧
    ((shared []).lockUnit.lock (live 63 .shared).lock).holders.filter (fun h => h.port != 0) = [] ∧
    (held.lockUnit.lock (live 63 .exclusive).lock).params = some ⟨2, 5, .report, .release⟩ ∧
    ((withLock 63 { exclusiveLock 0 with params := some ⟨2, 5, .report, .breakLock⟩ } held).lockUnit.lock 63).params =
      some ⟨2, 5, .report, .breakLock⟩ := by decide

/-- FaultReportIsTakenWhole: no report of the block; one; a log with room for it and one without. -/
theorem witness_reports : (∀ r ∈ State.reset.reports, r.source ≠ .lockUnit) ∧
    (reported [{ cls := .order }] State.reset).reports = [] ++ ⟨.lockUnit, [{ cls := .order }]⟩ :: [] ∧
    (logged 15 State.reset).faultUnit.log.length + 1 ≤ 16 ∧ (logged 16 State.reset).faultUnit.log.length ≤ 16 ∧
    16 < (logged 16 State.reset).faultUnit.log.length + 1 := by decide

/-- FaultReportIsTakenWhole: a command that moves the tick counter. -/
theorem witness_counter_moves : exec .lockClockTick State.reset = .next (after .lockClockTick State.reset) ∧
    (after .lockClockTick State.reset).clock.counter ≠ State.reset.clock.counter := ⟨rfl, by decide⟩

/-- ReadFaultTakesOldest, AlertSetsAndTheLine: an empty log and one record. -/
theorem witness_log : State.reset.ready ∧ State.reset.faultUnit.log = [] ∧ (logged 1 State.reset).ready ∧
    (logged 1 State.reset).faultUnit.log = ⟨{ cls := .link }, 0, false⟩ :: [] :=
  ⟨ready_of rfl rfl, by decide, ready_of rfl rfl, by decide⟩

/-- SetPortWritesItems: each value just out of range; port 5; an ONLINE port disabled. -/
theorem witness_set_port : 5 < (6#8).toNat ∧ 1 < (2#8).toNat ∧ (5 : PortId).val = (5#8).toNat ∧ (1#8).toNat ≤ 1 ∧
    (linked .online).ready ∧ ((linked .online).port 0).link = .online ∧ ((linked .offline).port 0).link ≠ .online :=
  ⟨by decide, by decide, by decide, by decide, ready_of rfl rfl, by decide, by decide⟩

/-- DefineWindowByState: each bound just exceeded; the largest range that is good; an ENABLED window and another. -/
theorem witness_define_window :
    15 < (16#8).toNat ∧ (0#32).toNat = 0 ∧ 1048576 < (1048577#32).toNat ∧ 1048575 < (1048576#32).toNat ∧
    1048576 < (1048575#32).toNat + (2#32).toNat ∧ 63 < (64#8).toNat ∧ 2 < (3#8).toNat ∧
    (1048575#32).toNat + (1#32).toNat ≤ 1048576 ∧ (∃ x, (mapped .block State.reset).window 0 = .enabled x) ∧
    (∀ x, State.reset.window 15 ≠ .enabled x) := by
  refine ⟨by decide, by decide, by decide, by decide, by decide, by decide, by decide, by decide, ⟨⟨1, 2, .block⟩, by decide⟩, ?_⟩
  simp [State.window, State.reset]

/-- EnableAndDisableWindow: an undefined window; a GUARD window of an UNDEFINED lock; a page shared and none shared; a busy
lock mapped and none. -/
theorem witness_enable_disable :
    ((State.reset.setWindow 15 (.defined ⟨1, 2, .guard 63 .drop .drop⟩)).window 15 =
      .defined ⟨1, 2, .guard 63 .drop .drop⟩ ∧ (State.reset.lockUnit.lock 63).state = .undefined) ∧
    (((mapped .block State.reset).setWindow 15 (.defined ⟨2, 1, .block⟩)).window 0 = .enabled ⟨1, 2, .block⟩ ∧
      (2 : Nat) < 1 + 2 ∧ (1 : Nat) < 2 + 1) ∧
    (∀ e, State.reset.window 0 ≠ .enabled e) ∧
    ((mapped (.lock 0) held).window 0 = .enabled ⟨1, 2, .lock 0⟩ ∧ (held.lockUnit.lock 63).holders ≠ [] ∧
      63 < (0 : LockId).val + 128 * 2) ∧
    (∃ p, ∃ e ∈ (holding 0 [{ live 63 .shared with revoked := true }] State.reset).lockUnit.held p,
      e.lock = 63 ∧ e.revoked = true) := by
  refine ⟨by decide, by decide, ?_, by decide, ⟨0, { live 63 .shared with revoked := true }, by decide⟩⟩
  simp [State.window, State.reset]

/-- ReadingCommands: a window in each state, and a command in progress. -/
theorem witness_reading : State.reset.window 15 = .undefined ∧ (mapped .block State.reset).window 0 = .enabled ⟨1, 2, .block⟩ ∧
    (State.reset.setWindow 15 (.defined ⟨1, 2, .block⟩)).window 15 = .defined ⟨1, 2, .block⟩ ∧
    (inProgress State.reset).supervisor.command = .inProgress 0 ∧ (15 : WindowId).val = (15#8).toNat := by decide

/-- LockCommandsByState: each parameter just out of range; a lock in each state that matters; guarded, and in a hold list. -/
theorem witness_lock_commands :
    (63 < (64#8).toNat ∧ (0#8).toNat = 0 ∧ 15 < (16#8).toNat ∧ 1 < (2#8).toNat ∧ (63 : LockId).val = (63#8).toNat) ∧
    (State.reset.lockUnit.lock 63).state = .undefined ∧
    ((withLock 63 freeLock State.reset).lockUnit.lock 63).state = .free ∧ (held.lockUnit.lock 63).state = .exclusive ∧
    ((withLock 63 { freeLock with state := .broken } State.reset).lockUnit.lock 63).guardFlight = 0 ∧
    ((withLock 63 { freeLock with state := .broken, guardFlight := 1 } State.reset).lockUnit.lock 63).guardFlight ≠ 0 ∧
    (mapped (.guard 63 .drop .drop) (withLock 63 freeLock State.reset)).window 0 =
      .enabled ⟨1, 2, .guard 63 .drop .drop⟩ ∧
    (∃ p, ∃ e ∈ (holding 5 [{ live 63 .shared with revoked := true }] (withLock 63 freeLock State.reset)).lockUnit.held p,
      e.lock = 63) := by
  refine ⟨by decide, by decide, by decide, by decide, by decide, by decide, by decide,
    ⟨5, { live 63 .shared with revoked := true }, by decide⟩⟩

/-- ResetPortByLinkState: ports 5 and 6, each link state. -/
theorem witness_reset_port : 5 < (6#8).toNat ∧ (5 : PortId).val = (5#8).toNat ∧ (linked .resetting).ready ∧
    (State.reset.port 5).link = .offline ∧ ((linked .resetting).port 0).link = .resetting :=
  ⟨by decide, by decide, ready_of rfl rfl, by decide, by decide⟩

/-- SnapshotBuffer: an empty buffer and a latched one; a port that waits and one that does not. -/
theorem witness_snapshot : State.reset.supervisor.snapshot = none ∧
    (after (.snapshotLock 0) State.reset).supervisor.snapshot ≠ none ∧ (after (.snapshotLock 0) State.reset).ready ∧
    (queued false).lockUnit.wait 0 = some 63 ∧ (queued false).lockUnit.waiterOf 63 0 = some (waiter 0 .exclusive) ∧
    held.lockUnit.wait 0 = none := by
  refine ⟨by decide, by decide, ⟨by decide, fun p h => ?_⟩, by decide, by decide, by decide⟩
  cases h

/-- RefusedCommandWrites: an unknown opcode, a wrong length, a lone byte; a command while one is in progress; the part's own
address and another, with RESET# high and low. -/
theorem witness_addresses : low.resetLow = true ∧ State.reset.resetLow = false ∧
    (0x58 : BitVec 7) = 0x58#7 + State.reset.supervisor.straps.setWidth 7 ∧
    (0x5F : BitVec 7) ≠ 0x58#7 + State.reset.supervisor.straps.setWidth 7 := by decide

theorem witness_bad_writes : commandFormGood [0x99, 0] = false ∧ commandFormGood [0x60, 1, 0] = false ∧
    commandFormGood [0x60] = false ∧ isSupervisorWrite (.readStatus) = true ∧ isSupervisorWrite .commandWriteNak = true := by
  decide

/-- LinkFramesRoundTrip, CommandFramesRoundTrip: well-formed frames at the ends of their fields, and bad ones. -/
theorem witness_frames : Instr.wf (.request 5 2 15 0 0xFFFFFFFC [0, 0, 0, 255]) = true ∧
    (agentFrame (.request 5 2 15 0 0xFFFFFFFC [0, 0, 0, 255])).isSome = true ∧ (0x76 : Byte) ≠ crc8 [0x11] ∧
    (commandBytes (.setPort 255 255 255 0xFFFF)).isSome = true ∧ commandFormGood [0x60, 0] = true := by decide

/-- The laws kept by every step: the state right after reset meets each (its own statement, LawsHoldAtReset), and so do
states with something in them. -/
theorem witness_flight_law : (flying .write none State.reset).FlightLaw := by
  refine ⟨by decide, fun p h => ?_, ?_, ?_, by decide, by decide, by decide⟩
  · cases h
  · decide
  · decide

theorem witness_fault_law : (logged 16 State.reset).FaultLaw := ⟨by decide, by decide⟩

theorem witness_lock_law : held.lockUnit.Law := by
  have hl : ∀ l, held.lockUnit.lock l = if l = 63 then exclusiveLock 0 else LockRecord.powerOn := by
    intro l
    rw [held, holding, State.setUnit_lockUnit, LockUnit.lock_setHeld, withLock, State.setUnit_lockUnit,
      LockUnit.lock_setLock]
    split
    · rfl
    · simp [State.reset, LockUnit.lock]
  have hh : ∀ p, held.lockUnit.held p = if p = 0 then [live 63 .exclusive] else [] := by decide
  have hw : ∀ p, held.lockUnit.wait p = none := by decide
  have hwt : ∀ l, (held.lockUnit.lock l).waiters = [] := by
    intro l; rw [hl]; split <;> rfl
  refine ⟨fun l => ?_, fun p l m => ?_, by decide, fun p e he => ?_, fun p l => ?_, fun p l h => ?_, by decide⟩
  · rw [hl]
    split
    · exact ⟨⟨0, rfl⟩, by decide⟩
    · exact ⟨⟨rfl, rfl, rfl, rfl⟩, by decide⟩
  · rw [hl, hh]
    by_cases hp : p = 0 <;> by_cases hlk : l = 63 <;> cases m <;>
      simp [hp, hlk, exclusiveLock, live, LockRecord.powerOn]
    exact fun h => hlk h.symm
  · rw [hh] at he
    split at he
    · rw [List.mem_singleton] at he
      subst he
      decide
    · cases he
  · rw [hw, hwt]
    simp
  · rw [hw] at h
    cases h

/-- Port 0 is ONLINE and holds lock 63, with a queued request and an unsent RESPONSE; port 1 is OFFLINE with a WITHDRAW of its
ended session still at the lock unit. -/
def sessions : State :=
  (held.setPort 0 { PortRecord.powerOn with
    link := .online, badCount := 7, outstanding := 0x18, queue := [{ request .read 0 with tag := 4 }],
    headClass := some .plain, sendList := [.response 3 .ok []] }).setPort 1
    { PortRecord.powerOn with handed := some (opOf .withdraw 63), stale := true }

theorem witness_port_law : sessions.lockUnit.Law ∧ sessions.FlightLaw ∧ sessions.PortLaw := by
  refine ⟨witness_lock_law, ⟨by decide, by decide, by decide, by decide, by decide, by decide, by decide⟩,
    fun p => ?_⟩
  have hr : ∀ q : PortId, q ≠ 0 → q ≠ 1 → sessions.port q = PortRecord.powerOn := by decide
  have hh : ∀ q : PortId, q ≠ 0 → sessions.lockUnit.held q = [] := by decide
  have hw : ∀ q, sessions.lockUnit.wait q = none := by decide
  have hstale : (sessions.port 1).handed = some (opOf .withdraw 63) := by decide
  refine ⟨?_, ⟨?_, ?_, ?_, fun hc hl => ?_⟩, ⟨?_, ?_, ?_, ?_, ?_, fun op hop => ?_⟩⟩
  · unfold PortRecord.Law
    decide +revert
  · decide +revert
  · decide +revert
  · decide +revert
  · by_cases h0 : p = 0
    · subst h0
      rcases hl with hl | hl <;> exact absurd hl (by decide)
    · refine ⟨hh p h0, hw p, fun op hop => ?_⟩
      by_cases h1 : p = 1
      · subst h1
        rw [hstale] at hop
        cases hop
        rfl
      · rw [hr p h0 h1] at hop
        cases hop
  · decide +revert
  · decide +revert
  · decide +revert
  · have h : ∀ q, ∀ f ∈ (sessions.port q).sendList, q = 0 ∧ f = .response 3 .ok [] := by decide
    intro f hf t ht
    obtain ⟨rfl, rfl⟩ := h p f hf
    cases ht
    decide
  · decide +revert
  · have h : ∀ q : PortId, (sessions.port q).headClass = if q = 0 then some .plain else none := by decide
    rw [h] at hop
    split at hop <;> cases hop

theorem witness_guard_law : held.GuardLaw := by
  refine ⟨fun l => ?_, by decide, fun p l w k h => ?_⟩
  · have hg : ∀ l, (held.lockUnit.lock l).guardFlight = 0 := by decide
    rw [hg]
    rfl
  · have hc : ∀ p, (held.port p).headClass = none := by decide
    rw [hc] at h
    cases h

end Sys2Proof.Tests
end

section
/-! Grants, field by field: what a grant leaves at its lock, at hold lists and at waits, and what the grants to a list of waiters
add up to (R18, R33, R34, R36). -/

namespace Sys2Proof.Machine

/-! ### One grant -/

@[simp] theorem LockUnit.lock_grant_self (u : LockUnit) (l : LockId) (p : PortId) (m : Mode) :
    (u.grant l p m).lock l = (u.lock l).grant p m := by
  simp [LockUnit.grant]

@[simp] theorem LockUnit.lock_grant_ne (u : LockUnit) {l k : LockId} (p : PortId) (m : Mode) (h : k ≠ l) :
    (u.grant l p m).lock k = u.lock k := by
  simp [LockUnit.grant, h]

@[simp] theorem LockUnit.wait_grant (u : LockUnit) (l : LockId) (p q : PortId) (m : Mode) :
    (u.grant l p m).wait q = u.wait q := rfl

@[simp] theorem LockUnit.held_grant_self (u : LockUnit) (l : LockId) (p : PortId) (m : Mode) :
    (u.grant l p m).held p = u.held p ++
      [{ lock := l, mode := m, generation := (u.lock l).generation + 1, revoked := false, loss := false }] := by
  simp [LockUnit.grant]

@[simp] theorem LockUnit.held_grant_ne (u : LockUnit) (l : LockId) {p q : PortId} (m : Mode) (h : q ≠ p) :
    (u.grant l p m).held q = u.held q := by
  simp [LockUnit.grant, h]

@[simp] theorem LockUnit.places_grant_self (u : LockUnit) (l : LockId) (p : PortId) (m : Mode) :
    (u.grant l p m).places p = u.places p + 1 := by
  have hlen : ((u.grant l p m).held p).length = (u.held p).length + 1 := by simp
  show ((u.grant l p m).held p).length + (if (u.wait p).isSome then 1 else 0) = u.places p + 1
  rw [hlen, LockUnit.places]
  omega

@[simp] theorem LockUnit.places_grant_ne (u : LockUnit) (l : LockId) {p q : PortId} (m : Mode) (h : q ≠ p) :
    (u.grant l p m).places q = u.places q := by
  show ((u.grant l p m).held q).length + (if (u.wait q).isSome then 1 else 0) = u.places q
  rw [LockUnit.held_grant_ne _ _ _ h, LockUnit.places]

/-- The word of a grant is formed after it (R18). -/
theorem LockUnit.wordFor_grant (u : LockUnit) (l : LockId) (p : PortId) (m : Mode) (o : LockOutcome) :
    (u.grant l p m).wordFor l o m = resultWord o l.val m ((u.lock l).generation + 1) (u.lock l).taint := by
  simp [LockUnit.wordFor, LockRecord.grant]

/-! ### Grants to a list of waiters -/

/-- A lock record after grants to the waiters `ws`, in their order. -/
def LockRecord.grantAll (r : LockRecord) (ws : List Waiter) : LockRecord := ws.foldl (fun r w => r.grant w.port w.mode) r

@[simp] theorem LockRecord.grantAll_nil (r : LockRecord) : r.grantAll [] = r := rfl

@[simp] theorem LockRecord.grantAll_cons (r : LockRecord) (w : Waiter) (ws : List Waiter) :
    r.grantAll (w :: ws) = (r.grant w.port w.mode).grantAll ws := rfl

/-- Grants to the waiters of a list act on the lock's record one after another. -/
theorem LockUnit.grantWaiters_lock (l : LockId) (ws : List Waiter) :
    ∀ u : LockUnit, (u.grantWaiters l ws).1.lock l = (u.lock l).grantAll ws := by
  induction ws with
  | nil => intro u; rfl
  | cons w ws ih =>
    intro u
    exact (ih _).trans (by simp)

/-- Shared grants join the holder set in order, and the first of them starts the lease of an empty lock (R34, R36). -/
theorem LockRecord.grantAll_shared (ws : List Waiter) : ∀ r : LockRecord, ws ≠ [] → (∀ w ∈ ws, w.mode = .shared) →
    r.grantAll ws = { r with
      state := .shared
      holders := r.holders ++ ws.map (fun w => { port := w.port, mode := .shared })
      generation := r.generation + BitVec.ofNat 16 ws.length
      leaseRemaining := if r.holders = [] then r.lease else r.leaseRemaining
      leaseRunning := if r.holders = [] then r.lease != 0 else r.leaseRunning
      leaseReported := if r.holders = [] then false else r.leaseReported } := by
  induction ws with
  | nil => intro r h; exact absurd rfl h
  | cons w ws ih =>
    intro r _ hm
    have hw : w.mode = .shared := hm w List.mem_cons_self
    have hgen : r.generation + 1#16 + BitVec.ofNat 16 ws.length = r.generation + BitVec.ofNat 16 (ws.length + 1) := by
      rw [BitVec.add_assoc, ← BitVec.ofNat_add, Nat.add_comm 1]
    rw [LockRecord.grantAll_cons, hw]
    cases ws with
    | nil => simp [LockRecord.grant, Mode.held]
    | cons x xs =>
      rw [ih _ (by simp) fun y hy => hm y (List.mem_cons_of_mem _ hy)]
      simpa [LockRecord.grant, Mode.held] using hgen

/-- Each waiter is answered GRANTED with the generation of its own grant (R18, R34). -/
theorem LockUnit.grantWaiters_answers (l : LockId) (ws : List Waiter) : ∀ u : LockUnit, (u.grantWaiters l ws).2 =
    ws.mapIdx (fun i w => ⟨w.port, w.tag,
      resultWord .granted l.val w.mode ((u.lock l).generation + BitVec.ofNat 16 (i + 1)) (u.lock l).taint⟩) := by
  induction ws with
  | nil => intro u; rfl
  | cons w ws ih =>
    intro u
    have hgen : ∀ i : Nat, (u.lock l).generation + 1#16 + BitVec.ofNat 16 (i + 1) =
        (u.lock l).generation + BitVec.ofNat 16 (i + 1 + 1) := fun i => by
      rw [BitVec.add_assoc, ← BitVec.ofNat_add, Nat.add_comm 1]
    rw [LockUnit.grantWaiters, List.mapIdx_cons]
    dsimp only
    rw [ih, LockUnit.wordFor_grant]
    simp [LockRecord.grant, hgen]

/-- Each waiter gains the entry of its own grant (R18, R34). -/
theorem LockUnit.grantWaiters_held (l : LockId) (ws : List Waiter) : ∀ u : LockUnit, (ws.map Waiter.port).Nodup →
    ∀ i w, ws[i]? = some w → (u.grantWaiters l ws).1.held w.port = u.held w.port ++
      [{ lock := l, mode := w.mode, generation := (u.lock l).generation + BitVec.ofNat 16 (i + 1), revoked := false,
         loss := false }] := by
  induction ws with
  | nil => intro u _ i w h; simp at h
  | cons x xs ih =>
    intro u hnd i w hw
    rw [List.map_cons, List.nodup_cons] at hnd
    obtain ⟨hx, hxs⟩ := hnd
    have hne : ∀ y ∈ xs, y.port ≠ x.port := fun y hy e => hx (e ▸ List.mem_map_of_mem hy)
    cases i with
    | zero =>
      obtain rfl : x = w := by simpa using hw
      refine (LockUnit.grantWaiters_keepsPort l x.port xs _ hne).1.trans ?_
      simp
    | succ i =>
      rw [List.getElem?_cons_succ] at hw
      have hwx : w.port ≠ x.port := hne w (List.mem_of_getElem? hw)
      have hgen : (u.lock l).generation + 1#16 + BitVec.ofNat 16 (i + 1) =
          (u.lock l).generation + BitVec.ofNat 16 (i + 1 + 1) := by
        rw [BitVec.add_assoc, ← BitVec.ofNat_add, Nat.add_comm 1]
      refine (ih _ hxs i w hw).trans ?_
      simp [hwx, LockRecord.grant, hgen]

/-! ### The leading shared run -/

/-- The leading shared run of the queue of a lock (R34, R36). -/
def LockRecord.run (r : LockRecord) : List Waiter := r.waiters.takeWhile Waiter.isShared

/-- What stays in the queue behind the leading shared run. -/
def LockRecord.behindRun (r : LockRecord) : List Waiter := r.waiters.dropWhile Waiter.isShared

theorem LockRecord.run_append_behindRun (r : LockRecord) : r.run ++ r.behindRun = r.waiters :=
  List.takeWhile_append_dropWhile

theorem LockRecord.run_shared (r : LockRecord) : ∀ w ∈ r.run, w.mode = .shared := fun w hw => by
  simpa [Waiter.isShared] using List.mem_takeWhile_imp hw

/-- Behind the run stands an EXCLUSIVE record, or none. -/
theorem LockRecord.behindRun_head (r : LockRecord) (w : Waiter) (h : r.behindRun.head? = some w) : w.mode = .exclusive := by
  have hw : w.isShared = false := by
    have := List.head?_dropWhile_not Waiter.isShared r.waiters
    rw [LockRecord.behindRun] at h
    simpa [h] using this
  cases hm : w.mode with
  | exclusive => rfl
  | shared => simp [Waiter.isShared, hm] at hw

/-- The run is taken out of the queue and granted. -/
theorem LockUnit.grantRun_eq (u : LockUnit) (l : LockId) :
    u.grantRun l = (u.setLock l { u.lock l with waiters := (u.lock l).behindRun }).grantWaiters l (u.lock l).run := rfl

/-- Without a leading shared record nothing is granted. -/
theorem LockUnit.grantRun_of_nil (u : LockUnit) (l : LockId) (h : (u.lock l).run = []) : u.grantRun l = (u, []) := by
  have hb : (u.lock l).behindRun = (u.lock l).waiters := by
    simpa [h] using (u.lock l).run_append_behindRun
  rw [LockUnit.grantRun_eq, h, hb]
  exact congrArg (·, []) (LockUnit.setLock_lock u l)

/-- The lock after its leading shared run was granted (R34, R36). -/
theorem LockUnit.grantRun_lock (u : LockUnit) (l : LockId) (h : (u.lock l).run ≠ []) :
    (u.grantRun l).1.lock l = { u.lock l with
      waiters := (u.lock l).behindRun
      state := .shared
      holders := (u.lock l).holders ++ (u.lock l).run.map (fun w => { port := w.port, mode := .shared })
      generation := (u.lock l).generation + BitVec.ofNat 16 (u.lock l).run.length
      leaseRemaining := if (u.lock l).holders = [] then (u.lock l).lease else (u.lock l).leaseRemaining
      leaseRunning := if (u.lock l).holders = [] then (u.lock l).lease != 0 else (u.lock l).leaseRunning
      leaseReported := if (u.lock l).holders = [] then false else (u.lock l).leaseReported } := by
  rw [LockUnit.grantRun_eq, LockUnit.grantWaiters_lock, LockRecord.grantAll_shared _ _ h (LockRecord.run_shared _),
    LockUnit.lock_setLock_self]
  rfl

/-- Each record of the run is answered with its own generation. -/
theorem LockUnit.grantRun_answers (u : LockUnit) (l : LockId) : (u.grantRun l).2 =
    (u.lock l).run.mapIdx (fun i w => ⟨w.port, w.tag,
      resultWord .granted l.val .shared ((u.lock l).generation + BitVec.ofNat 16 (i + 1)) (u.lock l).taint⟩) := by
  rw [LockUnit.grantRun_eq, LockUnit.grantWaiters_answers, List.mapIdx_eq_mapIdx_iff]
  intro i hi
  rw [LockRecord.run_shared _ _ (List.getElem_mem hi), LockUnit.lock_setLock_self]

/-- Each port of the run waits no longer and gains the entry of its own grant. -/
theorem LockUnit.grantRun_port (u : LockUnit) (l : LockId) (hnd : ((u.lock l).run.map Waiter.port).Nodup) (i : Nat)
    (w : Waiter) (hw : (u.lock l).run[i]? = some w) : (u.grantRun l).1.wait w.port = none ∧
      (u.grantRun l).1.held w.port = u.held w.port ++
        [{ lock := l, mode := .shared, generation := (u.lock l).generation + BitVec.ofNat 16 (i + 1), revoked := false,
           loss := false }] := by
  have hm : w ∈ (u.lock l).run := List.mem_of_getElem? hw
  obtain ⟨-, hwait, -, -⟩ := LockUnit.grantWaiters_waits l (u.lock l).run
    (u.setLock l { u.lock l with waiters := (u.lock l).behindRun })
  rw [LockUnit.grantRun_eq]
  refine ⟨?_, ?_⟩
  · rw [hwait, if_pos (List.any_eq_true.2 ⟨w, hm, by simp⟩)]
  · rw [LockUnit.grantWaiters_held l _ _ hnd i w hw, LockRecord.run_shared _ w hm, LockUnit.held_setLock,
      LockUnit.lock_setLock_self]

/-! ### The grantable moment -/

/-- An EXCLUSIVE head is granted alone (R33). -/
theorem LockUnit.grantHead_exclusive (u : LockUnit) (l : LockId) {w : Waiter} {ws : List Waiter}
    (hq : (u.lock l).waiters = w :: ws) (hm : w.mode = .exclusive) :
    u.grantHead l = (u.setLock l { u.lock l with waiters := ws }).grantWaiters l [w] := by
  rw [LockUnit.grantHead, hq]
  dsimp only
  rw [hm]

/-- An EXCLUSIVE head of an empty lock, with every effect of its grant (R18, R33). -/
theorem LockUnit.grantHead_exclusive_of_empty {u : LockUnit} {l : LockId} (hh : (u.lock l).holders = []) {w : Waiter}
    {ws : List Waiter} (hq : (u.lock l).waiters = w :: ws) (hm : w.mode = .exclusive) : u.grantHead l =
      (((u.setLock l { u.lock l with
          waiters := ws, state := .exclusive, holders := [⟨w.port, .exclusive⟩], generation := (u.lock l).generation + 1,
          leaseRemaining := (u.lock l).lease, leaseRunning := (u.lock l).lease != 0, leaseReported := false }).setWait
          w.port none).setHeld w.port
          (u.held w.port ++ [⟨l, .exclusive, (u.lock l).generation + 1, false, false⟩]),
        [⟨w.port, w.tag, resultWord .granted l.val .exclusive ((u.lock l).generation + 1) (u.lock l).taint⟩]) := by
  have hgrant : ({ u.lock l with waiters := ws } : LockRecord).grant w.port .exclusive = { u.lock l with
      waiters := ws, state := .exclusive, holders := [⟨w.port, .exclusive⟩], generation := (u.lock l).generation + 1,
      leaseRemaining := (u.lock l).lease, leaseRunning := (u.lock l).lease != 0, leaseReported := false } := by
    simp [LockRecord.grant, Mode.held, hh, LockRecord.lease]
  rw [LockUnit.grantHead_exclusive u l hq hm]
  refine Prod.ext ?_ ?_
  · show ((u.setLock l { u.lock l with waiters := ws }).setWait w.port none).grant l w.port w.mode = _
    rw [hm, LockUnit.grant, LockUnit.lock_setWait, LockUnit.lock_setLock_self, hgrant, LockUnit.setWait_setLock,
      LockUnit.setLock_setLock]
    rfl
  · rw [LockUnit.grantWaiters_answers]
    simp [hm]

/-- A SHARED head is granted with its run (R34). -/
theorem LockUnit.grantHead_shared (u : LockUnit) (l : LockId) {w : Waiter} {ws : List Waiter}
    (hq : (u.lock l).waiters = w :: ws) (hm : w.mode = .shared) : u.grantHead l = u.grantRun l := by
  rw [LockUnit.grantHead, hq]
  dsimp only
  rw [hm]

theorem LockUnit.settle_of_flight (u : LockUnit) (l : LockId) (h : (u.lock l).guardFlight ≠ 0) :
    u.settle l = (u.setLock l { u.lock l with state := .draining }, []) := by
  rw [LockUnit.settle, if_pos h]

theorem LockUnit.settle_of_no_waiters (u : LockUnit) (l : LockId) (h : (u.lock l).guardFlight = 0)
    (hq : (u.lock l).waiters = []) : u.settle l = (u.setLock l { u.lock l with state := .free }, []) := by
  rw [LockUnit.settle, if_neg (not_not_intro h), if_pos hq]

theorem LockUnit.settle_of_waiters (u : LockUnit) (l : LockId) (h : (u.lock l).guardFlight = 0)
    (hq : (u.lock l).waiters ≠ []) : u.settle l = u.grantHead l := by
  rw [LockUnit.settle, if_neg (not_not_intro h), if_neg hq]

end Sys2Proof.Machine
end

section
/-! The lock unit's agreement with itself (R2, R28, R29, R49, R51, R53, R68), split into what a grant builds up again at one lock
and what the lock's state asks of its record. -/

namespace Sys2Proof.Machine

/-! ### The law of one record -/

/-- What the state of a lock asks of its holder set, queue, parameters and guard-flight count (R6 to R11, R28). -/
def LockRecord.Fits (r : LockRecord) : Prop :=
  match r.state with
  | .undefined => r.holders = [] ∧ r.waiters = [] ∧ r.params = none ∧ r.guardFlight = 0
  | .free => r.holders = [] ∧ r.waiters = [] ∧ r.guardFlight = 0
  | .exclusive => ∃ p, r.holders = [{ port := p, mode := .exclusive }]
  | .shared => r.holders ≠ [] ∧ (∀ h ∈ r.holders, h.mode = .shared) ∧ r.guardFlight = 0 ∧
      ∀ w, r.waiters.head? = some w → w.mode = .exclusive
  | .draining => r.holders = [] ∧ r.guardFlight ≠ 0
  | .broken => r.holders = [] ∧ r.waiters = []

/-- The lease runs only while the lock is held, and a stopped one stands at 0 (R68). -/
def LockRecord.LeaseFits (r : LockRecord) : Prop :=
  (r.leaseRunning = true → r.holders ≠ []) ∧ (r.leaseRunning = false → r.leaseRemaining = 0)

theorem LockRecord.law_iff (r : LockRecord) : r.Law ↔ r.Fits ∧ (r.state ≠ .undefined → r.params ≠ none) ∧
    (r.holders.map Holder.port).Nodup ∧ (r.waiters.map Waiter.port).Nodup ∧ r.LeaseFits := Iff.rfl

/-- A held lock is EXCLUSIVE or SHARED. -/
theorem LockRecord.Fits.held {r : LockRecord} (h : r.Fits) (hh : r.holders ≠ []) :
    r.state = .exclusive ∨ r.state = .shared := by
  rw [LockRecord.Fits] at h
  split at h
  · exact absurd h.1 hh
  · exact absurd h.1 hh
  · exact .inl ‹_›
  · exact .inr ‹_›
  · exact absurd h.1 hh
  · exact absurd h.1 hh

/-- The holder of an EXCLUSIVE lock is alone (R8). -/
theorem LockRecord.Fits.holders_of_exclusive {r : LockRecord} (h : r.Fits) {p : PortId}
    (hp : ({ port := p, mode := .exclusive } : Holder) ∈ r.holders) :
    r.state = .exclusive ∧ r.holders = [{ port := p, mode := .exclusive }] := by
  rcases h.held (List.ne_nil_of_mem hp) with hs | hs
  · simp only [LockRecord.Fits, hs] at h
    obtain ⟨q, hq⟩ := h
    rw [hq, List.mem_singleton] at hp
    exact ⟨hs, by rw [hq, hp]⟩
  · simp only [LockRecord.Fits, hs] at h
    exact absurd (h.2.1 _ hp) (by simp)

/-- A lock with a SHARED holder is SHARED (R9). -/
theorem LockRecord.Fits.shared_of_mem {r : LockRecord} (h : r.Fits) {p : PortId}
    (hp : ({ port := p, mode := .shared } : Holder) ∈ r.holders) : r.state = .shared := by
  rcases h.held (List.ne_nil_of_mem hp) with hs | hs
  · simp only [LockRecord.Fits, hs] at h
    obtain ⟨q, hq⟩ := h
    rw [hq, List.mem_singleton] at hp
    cases hp
  · exact hs

/-! ### The unit's law with one lock singled out -/

/-- The lock unit agrees with itself, except that nothing is said about the state of lock `l`, which is in service, and that the
records `ws` have just been taken from the front of its queue. -/
structure LockUnit.Agree (u : LockUnit) (l : LockId) (ws : List Waiter) : Prop where
  others : ∀ k, k ≠ l → (u.lock k).Law
  service : (u.lock l).state ≠ .undefined ∧ (u.lock l).params ≠ none
  holders : ((u.lock l).holders.map Holder.port).Nodup
  queue : ((ws ++ (u.lock l).waiters).map Waiter.port).Nodup
  lease : (u.lock l).LeaseFits
  live : ∀ p k m, (∃ e ∈ u.held p, e.lock = k ∧ e.revoked = false ∧ e.mode = m) ↔
    ({ port := p, mode := m } : Holder) ∈ (u.lock k).holders
  nodup : ∀ p, ((u.held p).map HoldEntry.lock).Nodup
  defined : ∀ p, ∀ e ∈ u.held p, (u.lock e.lock).state ≠ .undefined
  waits : ∀ p k, u.wait p = some k ↔ ∃ w ∈ (if k = l then ws else []) ++ (u.lock k).waiters, w.port = p
  apart : ∀ p k, u.wait p = some k → ∀ e ∈ u.held p, e.lock ≠ k
  room : ∀ p, u.places p ≤ 8

/-! The clauses of the law by name. -/

theorem LockUnit.Law.record {u : LockUnit} (h : u.Law) (l : LockId) : (u.lock l).Law := h.1 l

theorem LockUnit.Law.live {u : LockUnit} (h : u.Law) (p : PortId) (l : LockId) (m : Mode) :
    (∃ e ∈ u.held p, e.lock = l ∧ e.revoked = false ∧ e.mode = m) ↔
      ({ port := p, mode := m } : Holder) ∈ (u.lock l).holders := h.2.1 p l m

theorem LockUnit.Law.nodup {u : LockUnit} (h : u.Law) (p : PortId) : ((u.held p).map HoldEntry.lock).Nodup := h.2.2.1 p

/-- A lock with an entry is in service (R51). -/
theorem LockUnit.Law.service_of_entry {u : LockUnit} (h : u.Law) {p : PortId} {e : HoldEntry} (he : e ∈ u.held p) :
    (u.lock e.lock).state ≠ .undefined := h.2.2.2.1 p e he

/-- A unit that obeys its law agrees around any lock in service. -/
theorem LockUnit.Law.agree {u : LockUnit} (h : u.Law) {l : LockId} (hs : (u.lock l).state ≠ .undefined) : u.Agree l [] := by
  obtain ⟨hlaw, hlive, hnodup, hdef, hwaits, hapart, hroom⟩ := h
  obtain ⟨-, hparams, hholders, hqueue, hlease⟩ := hlaw l
  exact ⟨fun k _ => hlaw k, ⟨hs, hparams hs⟩, hholders, hqueue, hlease, hlive, hnodup, hdef, by simpa using hwaits, hapart,
    hroom⟩

/-- A unit that agrees around a lock obeys its law when the lock's state fits its record. -/
theorem LockUnit.Agree.law {u : LockUnit} {l : LockId} (h : u.Agree l []) (hf : (u.lock l).Fits) : u.Law := by
  refine ⟨fun k => ?_, h.live, h.nodup, h.defined, by simpa using h.waits, h.apart, h.room⟩
  by_cases hk : k = l
  · subst hk
    exact (LockRecord.law_iff _).2 ⟨hf, fun _ => h.service.2, h.holders, h.queue, h.lease⟩
  · exact h.others k hk

/-- The ports that wait at a lock, as their records are replaced by records of the same ports. -/
theorem exists_port_iff {ws ws' : List Waiter} (h : ws'.map Waiter.port = ws.map Waiter.port) (p : PortId) :
    (∃ w ∈ ws', w.port = p) ↔ ∃ w ∈ ws, w.port = p := by
  rw [← List.mem_map, ← List.mem_map, h]

/-! ### Writing a record -/

/-- The record of the lock is written with its holders and its waiting ports kept. -/
theorem LockUnit.Agree.setLock {u : LockUnit} {l : LockId} {ws : List Waiter} (h : u.Agree l ws) {r : LockRecord}
    (hh : r.holders = (u.lock l).holders) (hw : r.waiters = (u.lock l).waiters)
    (hs : r.state ≠ .undefined ∧ r.params ≠ none) (hl : r.LeaseFits) : (u.setLock l r).Agree l ws where
  others k hk := by rw [LockUnit.lock_setLock_ne _ _ hk]; exact h.others k hk
  service := by simpa using hs
  holders := by simpa [hh] using h.holders
  queue := by simpa [hw] using h.queue
  lease := by simpa using hl
  live p k m := by
    by_cases hk : k = l
    · subst hk; simpa [hh] using h.live p k m
    · simpa [hk] using h.live p k m
  nodup := h.nodup
  defined p e he := by
    by_cases hk : e.lock = l
    · simpa [hk] using hs.1
    · simpa [hk] using h.defined p e he
  waits p k := by
    by_cases hk : k = l
    · subst hk; simpa [hw] using h.waits p k
    · simpa [hk] using h.waits p k
  apart := h.apart
  room := h.room

/-- A record is written with its holders and its waiting ports kept, and obeys its own law. -/
theorem LockUnit.Law.setLock {u : LockUnit} (h : u.Law) {l : LockId} {r : LockRecord} (hr : r.Law)
    (hh : r.holders = (u.lock l).holders) (hw : r.waiters.map Waiter.port = (u.lock l).waiters.map Waiter.port)
    (hs : ∀ p, ∀ e ∈ u.held p, e.lock = l → r.state ≠ .undefined) : (u.setLock l r).Law := by
  obtain ⟨hlaw, hlive, hnodup, hdef, hwaits, hapart, hroom⟩ := h
  refine ⟨fun k => ?_, fun p k m => ?_, hnodup, fun p e he => ?_, fun p k => ?_, hapart, hroom⟩
  · by_cases hk : k = l
    · subst hk; simpa using hr
    · simpa [hk] using hlaw k
  · by_cases hk : k = l
    · subst hk; simpa [hh] using hlive p k m
    · simpa [hk] using hlive p k m
  · by_cases hk : e.lock = l
    · simpa [hk] using hs p e he hk
    · simpa [hk] using hdef p e he
  · by_cases hk : k = l
    · subst hk
      rw [LockUnit.lock_setLock_self, exists_port_iff hw]
      exact hwaits p k
    · simpa [hk] using hwaits p k

/-! ### Entries going -/

/-- Hold lists shrink or change in place, entries for other locks stay, and the holder set of the lock is what the live entries
for it now say. -/
theorem LockUnit.Agree.rehold {u v : LockUnit} {l : LockId} {ws : List Waiter} (h : u.Agree l ws)
    (hothers : ∀ k, k ≠ l → v.lock k = u.lock k) (hwait : ∀ p, v.wait p = u.wait p)
    (hstate : (v.lock l).state = (u.lock l).state) (hparams : (v.lock l).params = (u.lock l).params)
    (hqueue : (v.lock l).waiters = (u.lock l).waiters)
    (hholders : ((v.lock l).holders.map Holder.port).Nodup) (hlease : (v.lock l).LeaseFits)
    (hsub : ∀ p, ((v.held p).map HoldEntry.lock).Sublist ((u.held p).map HoldEntry.lock))
    (hlive : ∀ p m, (∃ e ∈ v.held p, e.lock = l ∧ e.revoked = false ∧ e.mode = m) ↔
      ({ port := p, mode := m } : Holder) ∈ (v.lock l).holders)
    (hkeep : ∀ p k m, k ≠ l → ((∃ e ∈ v.held p, e.lock = k ∧ e.revoked = false ∧ e.mode = m) ↔
      ∃ e ∈ u.held p, e.lock = k ∧ e.revoked = false ∧ e.mode = m)) : v.Agree l ws where
  others k hk := by rw [hothers k hk]; exact h.others k hk
  service := by rw [hstate, hparams]; exact h.service
  holders := hholders
  queue := by rw [hqueue]; exact h.queue
  lease := hlease
  live p k m := by
    by_cases hk : k = l
    · subst hk; exact hlive p m
    · rw [hkeep p k m hk, hothers k hk]; exact h.live p k m
  nodup p := (h.nodup p).sublist (hsub p)
  defined p e he := by
    obtain ⟨e', he', hl⟩ := List.mem_map.1 ((hsub p).subset (List.mem_map_of_mem he))
    have hs := h.defined p e' he'
    rw [hl] at hs
    by_cases hk : e.lock = l
    · rw [hk, hstate]; exact h.service.1
    · rwa [hothers _ hk]
  waits p k := by
    rw [hwait]
    by_cases hk : k = l
    · subst hk; rw [hqueue]; exact h.waits p k
    · rw [hothers k hk]; exact h.waits p k
  apart p k hp e he := by
    obtain ⟨e', he', hl⟩ := List.mem_map.1 ((hsub p).subset (List.mem_map_of_mem he))
    rw [← hl]
    exact h.apart p k (by rw [← hwait p]; exact hp) e' he'
  room p := by
    have hlen := (hsub p).length_le
    have hroom := h.room p
    simp only [List.length_map] at hlen
    simp only [LockUnit.places, hwait] at hroom ⊢
    omega

/-! ### Leaving a queue -/

/-- Records are taken off the queue of the lock; their ports wait on until their grants. -/
theorem LockUnit.Agree.take {u : LockUnit} {l : LockId} (h : u.Agree l []) {gone kept : List Waiter}
    (hq : List.Perm (u.lock l).waiters (gone ++ kept)) :
    (u.setLock l { u.lock l with waiters := kept }).Agree l gone where
  others k hk := by rw [LockUnit.lock_setLock_ne _ _ hk]; exact h.others k hk
  service := by simpa using h.service
  holders := by simpa using h.holders
  queue := by simpa using (hq.map Waiter.port).nodup_iff.1 h.queue
  lease := by rw [LockUnit.lock_setLock_self]; exact h.lease
  live p k m := by
    by_cases hk : k = l
    · subst hk; simpa using h.live p k m
    · simpa [hk] using h.live p k m
  nodup := h.nodup
  defined p e he := by
    by_cases hk : e.lock = l
    · simpa [hk] using h.service.1
    · simpa [hk] using h.defined p e he
  waits p k := by
    by_cases hk : k = l
    · subst hk
      rw [if_pos rfl, LockUnit.lock_setLock_self, LockUnit.wait_setLock, h.waits]
      simp only [if_true, List.nil_append, hq.mem_iff]
    · simpa [hk] using h.waits p k
  apart := h.apart
  room := h.room

/-- The port of a record off the queue waits at the lock, has no entry for it, and has a place to spare for one. -/
theorem LockUnit.Agree.head {u : LockUnit} {l : LockId} {w : Waiter} {ws : List Waiter} (h : u.Agree l (w :: ws)) :
    u.wait w.port = some l ∧ (∀ e ∈ u.held w.port, e.lock ≠ l) ∧ (u.held w.port).length < 8 := by
  have hw : u.wait w.port = some l := (h.waits _ _).2 ⟨w, by simp, rfl⟩
  have hroom := h.room w.port
  simp only [LockUnit.places, hw, Option.isSome_some, if_true] at hroom
  exact ⟨hw, h.apart _ _ hw, by omega⟩

/-- The wait of a record off the queue is cleared. -/
theorem LockUnit.Agree.clearWait {u : LockUnit} {l : LockId} {w : Waiter} {ws : List Waiter} (h : u.Agree l (w :: ws)) :
    (u.setWait w.port none).Agree l ws where
  others := h.others
  service := h.service
  holders := h.holders
  queue := (List.nodup_cons.1 h.queue).2
  lease := h.lease
  live := h.live
  nodup := h.nodup
  defined := h.defined
  waits p k := by
    obtain ⟨hwait, -, -⟩ := h.head
    rw [LockUnit.wait_setWait]
    by_cases hp : p = w.port
    · subst hp
      simp only [if_true, reduceCtorEq, false_iff, not_exists, not_and]
      intro x hx hxw
      have hk : k = l := by
        have hin : u.wait w.port = some k := (h.waits _ k).2 ⟨x, by
          by_cases hk : k = l
          · subst hk; simp only [if_true, List.cons_append] at hx ⊢; exact List.mem_cons_of_mem _ hx
          · simpa [hk] using hx, hxw⟩
        rw [hwait] at hin
        exact (Option.some.inj hin).symm
      subst hk
      have hnd := (List.nodup_cons.1 h.queue).1
      simp only [if_true] at hx
      exact hnd (hxw ▸ List.mem_map_of_mem hx)
    · rw [if_neg hp, h.waits]
      by_cases hk : k = l
      · subst hk
        have hp' : ¬w.port = p := fun e => hp e.symm
        simp [hp']
      · simp [hk]
  apart p k hp := by
    rw [LockUnit.wait_setWait] at hp
    by_cases hpw : p = w.port
    · simp [hpw] at hp
    · rw [if_neg hpw] at hp
      exact h.apart p k hp
  room p := by
    have hroom := h.room p
    by_cases hp : p = w.port
    · subst hp
      simp only [LockUnit.places, LockUnit.held_setWait, LockUnit.wait_setWait_self] at hroom ⊢
      simp only [Option.isSome_none, Bool.false_eq_true, if_false]
      omega
    · simpa [LockUnit.places, hp] using hroom

/-! ### Granting -/

/-- A grant to a port that has no entry for the lock and does not wait there, and has a place to spare (R18). -/
theorem LockUnit.Agree.grant {u : LockUnit} {l : LockId} {ws : List Waiter} (h : u.Agree l ws) {p : PortId} (m : Mode)
    (hentry : ∀ e ∈ u.held p, e.lock ≠ l) (hwait : u.wait p ≠ some l) (hroom : u.places p < 8) :
    (u.grant l p m).Agree l ws where
  others k hk := by rw [LockUnit.lock_grant_ne _ _ _ hk]; exact h.others k hk
  service := by
    rw [LockUnit.lock_grant_self]
    exact ⟨by cases m <;> simp [LockRecord.grant, Mode.held], h.service.2⟩
  holders := by
    have hno : ∀ x ∈ (u.lock l).holders, x.port ≠ p := by
      rintro ⟨q, m'⟩ hx rfl
      obtain ⟨e, he, hel, -⟩ := (h.live _ _ _).2 hx
      exact hentry e he hel
    rw [LockUnit.lock_grant_self]
    simp only [LockRecord.grant, List.map_append, List.map_cons, List.map_nil]
    exact List.nodup_append.2 ⟨h.holders, by simp, by simpa using hno⟩
  queue := by
    rw [LockUnit.lock_grant_self]
    exact h.queue
  lease := by
    rw [LockUnit.lock_grant_self]
    refine ⟨fun _ => by simp [LockRecord.grant], fun hr => ?_⟩
    by_cases hh : (u.lock l).holders = []
    · simpa [LockRecord.grant, hh] using hr
    · have hr' : (u.lock l).leaseRunning = false := by simpa [LockRecord.grant, hh] using hr
      simpa [LockRecord.grant, hh] using h.lease.2 hr'
  live q k m' := by
    have hlive := h.live q k m'
    by_cases hk : k = l
    · subst hk
      rw [LockUnit.lock_grant_self]
      simp only [LockRecord.grant, List.mem_append, List.mem_singleton, Holder.mk.injEq, ← hlive]
      by_cases hq : q = p
      · subst hq
        rw [LockUnit.held_grant_self]
        constructor
        · rintro ⟨e, he, hek, her, hem⟩
          rcases List.mem_append.1 he with he | he
          · exact .inl ⟨e, he, hek, her, hem⟩
          · rw [List.mem_singleton] at he
            subst he
            exact .inr ⟨rfl, hem.symm⟩
        · rintro (⟨e, he, hek, her, hem⟩ | ⟨-, rfl⟩)
          · exact ⟨e, List.mem_append_left _ he, hek, her, hem⟩
          · exact ⟨_, List.mem_append_right _ (List.mem_singleton.2 rfl), rfl, rfl, rfl⟩
      · simp [hq]
    · rw [LockUnit.lock_grant_ne _ _ _ hk, ← hlive]
      by_cases hq : q = p
      · subst hq
        have hk' : ¬l = k := fun e => hk e.symm
        simp [or_and_right, exists_or, hk']
      · simp [hq]
  nodup q := by
    by_cases hq : q = p
    · subst hq
      rw [LockUnit.held_grant_self]
      simp only [List.map_append, List.map_cons, List.map_nil]
      exact List.nodup_append.2 ⟨h.nodup q, by simp, by simpa using hentry⟩
    · rw [LockUnit.held_grant_ne _ _ _ hq]; exact h.nodup q
  defined q e he := by
    have hold : ∀ e' ∈ u.held q, ((u.grant l p m).lock e'.lock).state ≠ .undefined := fun e' he' => by
      by_cases hk : e'.lock = l
      · rw [hk, LockUnit.lock_grant_self]; cases m <;> simp [LockRecord.grant, Mode.held]
      · rw [LockUnit.lock_grant_ne _ _ _ hk]; exact h.defined q e' he'
    by_cases hq : q = p
    · subst hq
      rw [LockUnit.held_grant_self] at he
      rcases List.mem_append.1 he with he | he
      · exact hold e he
      · rw [List.mem_singleton] at he
        subst he
        rw [LockUnit.lock_grant_self]; cases m <;> simp [LockRecord.grant, Mode.held]
    · rw [LockUnit.held_grant_ne _ _ _ hq] at he
      exact hold e he
  waits q k := by
    rw [LockUnit.wait_grant, (LockUnit.grant_waits u l p m).1]
    exact h.waits q k
  apart q k hq e he := by
    rw [LockUnit.wait_grant] at hq
    by_cases hqp : q = p
    · subst hqp
      rw [LockUnit.held_grant_self] at he
      rcases List.mem_append.1 he with he | he
      · exact h.apart q k hq e he
      · rw [List.mem_singleton] at he
        subst he
        rintro rfl
        exact hwait hq
    · rw [LockUnit.held_grant_ne _ _ _ hqp] at he
      exact h.apart q k hq e he
  room q := by
    by_cases hq : q = p
    · subst hq
      rw [LockUnit.places_grant_self]
      exact hroom
    · rw [LockUnit.places_grant_ne _ _ _ hq]; exact h.room q

/-- Every record off the queue is granted. -/
theorem LockUnit.Agree.grantWaiters {l : LockId} (ws : List Waiter) :
    ∀ {u : LockUnit}, u.Agree l ws → (u.grantWaiters l ws).1.Agree l [] := by
  induction ws with
  | nil => exact fun h => h
  | cons w ws ih =>
    intro u h
    obtain ⟨-, hentry, hroom⟩ := h.head
    exact ih (h.clearWait.grant w.mode hentry (by simp) (by simpa [LockUnit.places] using hroom))

end Sys2Proof.Machine
end

section
/-! Every event at the lock unit keeps the unit's law: grants, the grantable moment, removals from a queue, releases,
acquisitions, revocation, the port-gone claim, and counted writes. -/

namespace Sys2Proof.Machine

/-! ### Grants from the queue -/

/-- The leading run of a lock without EXCLUSIVE holders is granted (R34, R36). -/
theorem LockUnit.Agree.grantRun_law {u : LockUnit} {l : LockId} (h : u.Agree l [])
    (hshared : ∀ x ∈ (u.lock l).holders, x.mode = .shared) (hg : (u.lock l).guardFlight = 0)
    (hrun : (u.lock l).run ≠ [] ∨ ((u.lock l).state = .shared ∧ (u.lock l).holders ≠ [])) : (u.grantRun l).1.Law := by
  have hhead := (u.lock l).behindRun_head
  by_cases hnil : (u.lock l).run = []
  · obtain ⟨hs, hh⟩ := hrun.resolve_left (not_not_intro hnil)
    have hb : (u.lock l).behindRun = (u.lock l).waiters := by
      simpa [hnil] using (u.lock l).run_append_behindRun
    rw [LockUnit.grantRun_of_nil u l hnil]
    rw [hb] at hhead
    refine h.law ?_
    simp only [LockRecord.Fits, hs]
    exact ⟨hh, hshared, hg, hhead⟩
  · have hagree : (u.grantRun l).1.Agree l [] :=
      (h.take (gone := (u.lock l).run) (kept := (u.lock l).behindRun)
        (by rw [LockRecord.run_append_behindRun])).grantWaiters
    refine hagree.law ?_
    rw [LockUnit.grantRun_lock u l hnil]
    refine ⟨by simp [hnil], fun x hx => ?_, hg, hhead⟩
    rcases List.mem_append.1 hx with hx | hx
    · exact hshared x hx
    · obtain ⟨w, -, rfl⟩ := List.mem_map.1 hx
      rfl

/-- The grantable moment of an emptied lock (R32 to R34, R10). -/
theorem LockUnit.Agree.settle_law {u : LockUnit} {l : LockId} (h : u.Agree l []) (hh : (u.lock l).holders = []) :
    (u.settle l).1.Law := by
  by_cases hg : (u.lock l).guardFlight = 0
  · cases hq : (u.lock l).waiters with
    | nil =>
      rw [LockUnit.settle_of_no_waiters u l hg hq]
      refine (h.setLock (r := { u.lock l with state := .free }) rfl rfl ⟨by simp, h.service.2⟩ h.lease).law ?_
      rw [LockUnit.lock_setLock_self]
      exact ⟨hh, hq, hg⟩
    | cons w ws =>
      rw [LockUnit.settle_of_waiters u l hg (by simp [hq])]
      cases hm : w.mode with
      | exclusive =>
        rw [LockUnit.grantHead_exclusive u l hq hm]
        refine (LockUnit.Agree.grantWaiters [w] (h.take (kept := ws) (by rw [hq]; rfl))).law ?_
        rw [LockUnit.grantWaiters_lock, LockUnit.lock_setLock_self]
        simp [LockRecord.Fits, LockRecord.grant, Mode.held, hm, hh]
      | shared =>
        rw [LockUnit.grantHead_shared u l hq hm]
        exact h.grantRun_law (by simp [hh]) hg (.inl (by simp [LockRecord.run, hq, Waiter.isShared, hm]))
  · rw [LockUnit.settle_of_flight u l hg]
    refine (h.setLock (r := { u.lock l with state := .draining }) rfl rfl ⟨by simp, h.service.2⟩ h.lease).law ?_
    rw [LockUnit.lock_setLock_self]
    exact ⟨hh, hg⟩

/-! ### Leaving a queue without a grant -/

/-- A record that leaves the queue, other than the head of a SHARED lock, leaves a record that still fits its state. -/
theorem LockRecord.Fits.removeWaiter {r : LockRecord} (h : r.Fits) {p : PortId}
    (hp : ¬(r.state = .shared ∧ r.waiters.head?.map Waiter.port = some p)) :
    ({ r with waiters := r.waiters.filter (fun w => w.port != p) } : LockRecord).Fits := by
  unfold LockRecord.Fits at h ⊢
  dsimp only
  split <;> rename_i hs <;> simp only [hs] at h hp
  · obtain ⟨hh, hq, hrest⟩ := h
    exact ⟨hh, by simp [hq], hrest⟩
  · obtain ⟨hh, hq, hrest⟩ := h
    exact ⟨hh, by simp [hq], hrest⟩
  · exact h
  · obtain ⟨hh, hm, hg, hhead⟩ := h
    refine ⟨hh, hm, hg, fun w hw => hhead w ?_⟩
    cases hq : r.waiters with
    | nil => simp [hq] at hw
    | cons x xs =>
      have hx : x.port ≠ p := fun e => hp ⟨trivial, by simp [hq, e]⟩
      simpa [hq, hx] using hw
  · exact h
  · obtain ⟨hh, hq⟩ := h
    exact ⟨hh, by simp [hq]⟩

/-- The waiting port of a record is at a lock in service. -/
theorem LockUnit.Law.service_of_waiter {u : LockUnit} (h : u.Law) {l : LockId} {w : Waiter} (hw : w ∈ (u.lock l).waiters) :
    (u.lock l).state ≠ .undefined := by
  obtain ⟨hf, -⟩ := (LockRecord.law_iff _).1 (h.record l)
  intro hs
  simp only [LockRecord.Fits, hs] at hf
  rw [hf.2.1] at hw
  cases hw

/-- The waiter record of a port leaves (R31, R36). -/
theorem LockUnit.Law.removeWaiter {u : LockUnit} (h : u.Law) {l : LockId} {p : PortId} {w : Waiter}
    (hw : u.waiterOf l p = some w) : (u.removeWaiter l p).1.Law := by
  obtain rfl : w.port = p := by simpa using List.find?_some hw
  have hmem : w ∈ (u.lock l).waiters := List.mem_of_find?_eq_some hw
  have hagree := h.agree (h.service_of_waiter hmem)
  obtain ⟨hfits, -⟩ := (LockRecord.law_iff _).1 (h.record l)
  have hperm : List.Perm (u.lock l).waiters ([w] ++ (u.lock l).waiters.filter (fun x => x.port != w.port)) := by
    have hf := List.filter_append_perm (fun x : Waiter => x.port == w.port) (u.lock l).waiters
    rw [filter_port_of_mem (h.waits.2 l) hmem] at hf
    exact hf.symm
  have hleft := (hagree.take hperm).clearWait
  rw [LockUnit.removeWaiter]
  split
  · rename_i hhead
    obtain ⟨hs, -⟩ := hhead
    simp only [LockRecord.Fits, hs] at hfits
    obtain ⟨hh, hm, hg, -⟩ := hfits
    refine hleft.grantRun_law ?_ ?_ (.inr ?_) <;> rw [LockUnit.lock_setWait, LockUnit.lock_setLock_self]
    · exact hm
    · exact hg
    · exact ⟨hs, hh⟩
  · rename_i hhead
    refine hleft.law ?_
    rw [LockUnit.lock_setWait, LockUnit.lock_setLock_self]
    exact hfits.removeWaiter hhead

/-- A timeout (R39). -/
theorem LockUnit.Law.timeout {u : LockUnit} (h : u.Law) (l : LockId) (p : PortId) : (u.timeout l p).unit.Law := by
  rw [LockUnit.timeout]
  split
  · exact h
  · rename_i w hw
    exact h.removeWaiter (Option.filter_eq_some_iff.1 hw).1

/-- WITHDRAW (R24). -/
theorem LockUnit.Law.withdraw {u : LockUnit} (h : u.Law) (p : PortId) (op : LockOp) : (u.withdraw p op).unit.Law := by
  rw [LockUnit.withdraw]
  split
  · exact h
  · rename_i l _
    split
    · exact h
    · rename_i w hw
      split at hw
      · exact h.removeWaiter hw
      · cases hw

/-- The pending wait of a port ends without an answer (R41). -/
theorem LockUnit.Law.dropWait {u : LockUnit} (h : u.Law) (p : PortId) : (u.dropWait p).1.Law := by
  rw [LockUnit.dropWait]
  split
  · exact h
  · rename_i l hl
    obtain ⟨w, hm, rfl⟩ := (h.waits.1 _ _).1 hl
    exact h.removeWaiter (w := w) (find?_port_of_mem (h.waits.2 l) hm)

/-! ### An entry goes -/

/-- A port has one entry for a lock (R49). -/
theorem LockUnit.Law.entry_unique {u : LockUnit} (h : u.Law) {p : PortId} {e e' : HoldEntry} (he : e ∈ u.held p)
    (he' : e' ∈ u.held p) (hl : e'.lock = e.lock) : e' = e := by
  exact List.inj_on_of_nodup_map (h.nodup p) he' he hl

@[simp] theorem LockUnit.lock_dropEntry (u : LockUnit) (p : PortId) (l k : LockId) :
    (u.dropEntry p l).lock k = u.lock k := rfl

@[simp] theorem LockUnit.wait_dropEntry (u : LockUnit) (p q : PortId) (l : LockId) :
    (u.dropEntry p l).wait q = u.wait q := rfl

theorem LockUnit.held_dropEntry (u : LockUnit) (p q : PortId) (l : LockId) :
    (u.dropEntry p l).held q = if q = p then (u.held p).filter (fun e => e.lock != l) else u.held q := by
  rw [LockUnit.dropEntry, LockUnit.held_setHeld]

theorem LockUnit.mem_held_dropEntry (u : LockUnit) (p q : PortId) (l : LockId) (e : HoldEntry) :
    e ∈ (u.dropEntry p l).held q ↔ e ∈ u.held q ∧ (q = p → e.lock ≠ l) := by
  rw [LockUnit.held_dropEntry]
  by_cases hq : q = p
  · subst hq; simp
  · simp [hq]

theorem LockUnit.held_dropEntry_sublist (u : LockUnit) (p q : PortId) (l : LockId) :
    (((u.dropEntry p l).held q).map HoldEntry.lock).Sublist ((u.held q).map HoldEntry.lock) := by
  refine List.Sublist.map _ ?_
  rw [LockUnit.held_dropEntry]
  split
  · rename_i hq; subst hq; exact List.filter_sublist
  · exact List.Sublist.refl _

/-- The entries of a port for other locks stand when its entry for one lock goes. -/
theorem LockUnit.live_dropEntry_ne (u : LockUnit) (p q : PortId) {l k : LockId} (m : Mode) (hk : k ≠ l) :
    (∃ e ∈ (u.dropEntry p l).held q, e.lock = k ∧ e.revoked = false ∧ e.mode = m) ↔
      ∃ e ∈ u.held q, e.lock = k ∧ e.revoked = false ∧ e.mode = m := by
  refine exists_congr fun e => ?_
  rw [LockUnit.mem_held_dropEntry]
  refine ⟨fun ⟨⟨he, _⟩, hx⟩ => ⟨he, hx⟩, fun ⟨he, hx⟩ => ⟨⟨he, fun _ => ?_⟩, hx⟩⟩
  rw [hx.1]
  exact hk

/-- The entry of a port goes, and the port leaves the holder set (R21, R22, R155, R156). -/
theorem LockUnit.Law.leave {u : LockUnit} (h : u.Law) {p : PortId} {e : HoldEntry} (he : e ∈ u.held p) {r : LockRecord}
    (hstate : r.state = (u.lock e.lock).state) (hparams : r.params = (u.lock e.lock).params)
    (hqueue : r.waiters = (u.lock e.lock).waiters)
    (hholders : r.holders = (u.lock e.lock).holders.filter (fun x => x.port != p)) (hlease : r.LeaseFits) :
    ((u.dropEntry p e.lock).setLock e.lock r).Agree e.lock [] := by
  have hdef : (u.lock e.lock).state ≠ .undefined := h.service_of_entry he
  have hagree := h.agree hdef
  refine hagree.rehold (fun k hk => by simp [hk]) (fun _ => rfl) (by simp [hstate]) (by simp [hparams]) (by simp [hqueue]) ?_
    (by simpa using hlease) (fun q => by simpa using u.held_dropEntry_sublist p q e.lock) (fun q m => ?_)
    (fun q k m hk => by simpa using u.live_dropEntry_ne p q m hk)
  · rw [LockUnit.lock_setLock_self, hholders]
    exact hagree.holders.sublist (List.filter_sublist.map _)
  · rw [LockUnit.lock_setLock_self, hholders, List.mem_filter, ← hagree.live]
    simp only [LockUnit.held_setLock, LockUnit.mem_held_dropEntry, bne_iff_ne, ne_eq]
    constructor
    · rintro ⟨x, ⟨hx, hne⟩, hl, hm⟩
      exact ⟨⟨x, hx, hl, hm⟩, fun hq => hne hq hl⟩
    · rintro ⟨⟨x, hx, hl, hm⟩, hne⟩
      exact ⟨x, ⟨hx, fun hq => absurd hq hne⟩, hl, hm⟩

/-- A revoked entry goes and the lock is untouched (R20). -/
theorem LockUnit.Law.dropRevoked {u : LockUnit} (h : u.Law) {p : PortId} {e : HoldEntry} (he : e ∈ u.held p)
    (hr : e.revoked = true) : (u.dropEntry p e.lock).Law := by
  obtain ⟨hfits, -, -, -, hlease⟩ := (LockRecord.law_iff _).1 (h.record e.lock)
  have hno : ∀ x ∈ (u.lock e.lock).holders, x.port ≠ p := by
    rintro ⟨q, m⟩ hx rfl
    obtain ⟨e', he', hl, hr', -⟩ := (h.live _ _ _).2 hx
    rw [h.entry_unique he he' hl, hr] at hr'
    cases hr'
  have hagree := h.leave he (r := u.lock e.lock) rfl rfl rfl (List.filter_eq_self.2 (by simpa using hno)).symm hlease
  have hsame : (u.dropEntry p e.lock).setLock e.lock (u.lock e.lock) = u.dropEntry p e.lock :=
    LockUnit.setLock_lock (u.dropEntry p e.lock) e.lock
  rw [hsame] at hagree
  exact hagree.law hfits

/-- A sharer leaves with its entry gone (R21, R155). -/
theorem LockUnit.Law.leaveShared {u : LockUnit} (h : u.Law) {p : PortId} {e : HoldEntry} (he : e ∈ u.held p)
    (hr : e.revoked = false) (hm : e.mode = .shared) : ((u.dropEntry p e.lock).leaveShared e.lock p).1.Law := by
  obtain ⟨hfits, -, -, -, hlease⟩ := (LockRecord.law_iff _).1 (h.record e.lock)
  have hin : ({ port := p, mode := .shared } : Holder) ∈ (u.lock e.lock).holders := (h.live _ _ _).1 ⟨e, he, rfl, hr, hm⟩
  have hs := hfits.shared_of_mem hin
  rw [LockUnit.leaveShared]
  dsimp only
  rw [LockUnit.lock_dropEntry]
  split
  · rename_i hnil
    have hlast : ({ (u.lock e.lock).stopLease with holders := [] } : LockRecord).LeaseFits :=
      ⟨fun hrun => (by cases hrun), fun _ => rfl⟩
    exact (h.leave he (r := { (u.lock e.lock).stopLease with holders := [] }) rfl rfl rfl hnil.symm hlast).settle_law
      (by simp)
  · rename_i hne
    refine (h.leave he (r := { u.lock e.lock with holders := (u.lock e.lock).holders.filter (fun x => x.port != p) })
      rfl rfl rfl rfl ⟨fun _ => hne, hlease.2⟩).law ?_
    simp only [LockRecord.Fits, hs] at hfits
    obtain ⟨-, hmode, hg, hhead⟩ := hfits
    rw [LockUnit.lock_setLock_self]
    simp only [LockRecord.Fits, hs]
    exact ⟨hne, fun x hx => hmode x (List.mem_of_mem_filter hx), hg, hhead⟩

/-- The holder set of an EXCLUSIVE lock is emptied with the entry gone (R22, R156). -/
theorem LockUnit.Law.emptyExclusive {u : LockUnit} (h : u.Law) {p : PortId} {e : HoldEntry} (he : e ∈ u.held p)
    (hr : e.revoked = false) (hm : e.mode = .exclusive) (taint : Bool) :
    ((u.dropEntry p e.lock).emptyHolders e.lock taint).Agree e.lock [] := by
  obtain ⟨hfits, -⟩ := (LockRecord.law_iff _).1 (h.record e.lock)
  obtain ⟨-, hholders⟩ := hfits.holders_of_exclusive ((h.live p e.lock .exclusive).1 ⟨e, he, rfl, hr, hm⟩)
  exact h.leave he rfl rfl rfl (by simp [hholders]) ⟨fun hrun => (by cases hrun), fun _ => rfl⟩

@[simp] theorem LockUnit.holders_emptyHolders (u : LockUnit) (l : LockId) (taint : Bool) :
    ((u.emptyHolders l taint).lock l).holders = [] := by
  simp [LockUnit.emptyHolders]

/-- An entry is given back (R20 to R22). -/
theorem LockUnit.Law.giveBack {u : LockUnit} (h : u.Law) {p : PortId} (tag : Tag) {e : HoldEntry} (he : e ∈ u.held p) :
    (u.giveBack p tag e).unit.Law := by
  rw [LockUnit.giveBack]
  dsimp only
  split
  · rename_i hr
    exact h.dropRevoked he hr
  · rename_i hr
    have hr : e.revoked = false := by simpa using hr
    split
    · rename_i hm
      exact h.leaveShared he hr hm
    · rename_i hm
      exact (h.emptyExclusive he hr hm _).settle_law (by simp)

/-- RELEASE (R20 to R22). -/
theorem LockUnit.Law.release {u : LockUnit} (h : u.Law) (p : PortId) (op : LockOp) : (u.release p op).unit.Law := by
  rw [LockUnit.release]
  split
  · exact h
  · split
    · exact h
    · rename_i e he
      exact h.giveBack op.tag (LockUnit.entry_lock he).2

/-- RELEASE-LATEST (R23). -/
theorem LockUnit.Law.releaseLatest {u : LockUnit} (h : u.Law) (p : PortId) (op : LockOp) :
    (u.releaseLatest p op).unit.Law := by
  rw [LockUnit.releaseLatest]
  split
  · exact h
  · rename_i e he
    exact h.giveBack op.tag (List.mem_of_getLast? he)

/-! ### Acquisition -/

theorem LockUnit.entry_eq_none {u : LockUnit} {p : PortId} {l : LockId} :
    u.entry p l = none ↔ ∀ e ∈ u.held p, e.lock ≠ l := by
  simp [LockUnit.entry]

/-- The greatest of a list of levels reaches a bound above 0 exactly when one of them does. -/
theorem le_foldl_max_iff {α : Type} (f : α → Nat) (es : List α) : ∀ h n : Nat,
    n ≤ es.foldl (fun h e => max h (f e)) h ↔ n ≤ h ∨ ∃ e ∈ es, n ≤ f e := by
  induction es with
  | nil => simp
  | cons e es ih =>
    intro h n
    rw [List.foldl_cons, ih, le_max_iff]
    simp [or_assoc]

/-- Check 6 reads H only of a port with entries (R58). -/
theorem LockUnit.outOfOrder_iff (u : LockUnit) (p : PortId) (l : LockId) :
    u.outOfOrder p l ↔ u.held p ≠ [] ∧ (u.lock l).level ≤ u.highestLevel p := by
  rw [LockUnit.highestLevel, le_foldl_max_iff, LockUnit.outOfOrder]
  constructor
  · rintro ⟨e, he, hle⟩
    exact ⟨List.ne_nil_of_mem he, .inr ⟨e, he, hle⟩⟩
  · rintro ⟨hne, hle | hle⟩
    · obtain ⟨e, he⟩ := List.exists_mem_of_ne_nil _ hne
      exact ⟨e, he, by omega⟩
    · exact hle

/-- Check 4 as the lock unit reads it. -/
theorem LockUnit.waitStands_iff (u : LockUnit) (p : PortId) (l : LockId) (tryOnly : Bool) :
    (if tryOnly then u.wait p == some l else (u.wait p).isSome) = true ↔ u.waitStands p l tryOnly := by
  cases tryOnly <;> simp [LockUnit.waitStands, Option.isSome_iff_ne_none]

/-- No refusal is given exactly when checks 2 to 6 pass (R16). -/
theorem LockUnit.refusal_eq_none_iff (u : LockUnit) (p : PortId) (l : LockId) (tryOnly : Bool) :
    u.refusal p l tryOnly = none ↔ u.passes p l tryOnly := by
  rw [LockUnit.refusal, LockUnit.passes]
  by_cases hb : (u.lock l).state = .broken
  · rw [if_pos hb]
    exact iff_of_false (by simp) fun ⟨hb', _⟩ => hb' hb
  rw [if_neg hb]
  by_cases he : (u.entry p l).isSome = true
  · rw [if_pos he]
    exact iff_of_false (by simp) fun ⟨_, he', _⟩ => by simp [he'] at he
  rw [if_neg he]
  by_cases hw : (if tryOnly then u.wait p == some l else (u.wait p).isSome) = true
  · rw [if_pos hw]
    exact iff_of_false (by simp) fun ⟨_, _, hw', _⟩ => hw' ((u.waitStands_iff p l tryOnly).1 hw)
  rw [if_neg hw]
  by_cases hr : Config.holdPlaces ≤ u.places p
  · rw [if_pos hr]
    exact iff_of_false (by simp) fun ⟨_, _, _, hr', _⟩ => absurd hr' (not_lt.2 hr)
  rw [if_neg hr]
  by_cases ho : tryOnly = false ∧ u.held p ≠ [] ∧ (u.lock l).level ≤ u.highestLevel p
  · rw [if_pos ho]
    obtain ⟨ht, ho⟩ := ho
    exact iff_of_false (by simp) fun ⟨_, _, _, _, ho'⟩ => ho' ht ((u.outOfOrder_iff p l).2 ho)
  · rw [if_neg ho]
    exact iff_of_true rfl ⟨hb, by simpa using he, fun h => hw ((u.waitStands_iff p l tryOnly).2 h), not_le.1 hr,
      fun ht h => ho ⟨ht, (u.outOfOrder_iff p l).1 h⟩⟩

/-- What a defined lock number names. -/
theorem LockUnit.definedLock_eq_some {u : LockUnit} {n : Nat} {l : LockId} :
    u.definedLock n = some l ↔ u.names n l := by
  rw [LockUnit.definedLock, LockUnit.names, ← slotLock_eq_some]
  cases hs : slotLock n with
  | none => simp
  | some k =>
    dsimp only
    split
    · rename_i hu
      simp only [reduceCtorEq, Option.some.injEq, false_iff, not_and, not_not]
      rintro rfl
      exact hu
    · rename_i hu
      simp only [Option.some.injEq]
      exact ⟨fun e => ⟨e, e ▸ hu⟩, fun e => e.1⟩

theorem LockRecord.grantsAtOnce_iff (r : LockRecord) (m : Mode) :
    r.grantsAtOnce m = true ↔ r.state = .free ∨ (r.state = .shared ∧ r.waiters = [] ∧ m = .shared) := by
  simp [LockRecord.grantsAtOnce, and_assoc]

/-- A record that fits its state fits the state of a grant at once (R18). -/
theorem LockRecord.Fits.grant {r : LockRecord} (h : r.Fits) {p : PortId} {m : Mode} (hg : r.grantsAtOnce m = true) :
    (r.grant p m).Fits := by
  rw [LockRecord.grantsAtOnce_iff] at hg
  rcases hg with hs | ⟨hs, hq, rfl⟩
  · simp only [LockRecord.Fits, hs] at h
    obtain ⟨hh, hq, hg⟩ := h
    cases m <;> simp [LockRecord.Fits, LockRecord.grant, Mode.held, hh, hq, hg]
  · simp only [LockRecord.Fits, hs] at h
    obtain ⟨-, hm, hg, -⟩ := h
    refine ⟨by simp [LockRecord.grant], fun x hx => ?_, hg, by simp [LockRecord.grant, hq]⟩
    rcases List.mem_append.1 hx with hx | hx
    · exact hm x hx
    · rw [List.mem_singleton] at hx
      rw [hx]

/-- A record that fits its state fits it with one more waiter, where that waiter cannot be granted at once (R17, R30). -/
theorem LockRecord.Fits.join {r : LockRecord} (h : r.Fits) (w : Waiter) (hu : r.state ≠ .undefined) (hb : r.state ≠ .broken)
    (hg : r.grantsAtOnce w.mode = false) : ({ r with waiters := r.waiters ++ [w] } : LockRecord).Fits := by
  have hg' : ¬(r.state = .free ∨ (r.state = .shared ∧ r.waiters = [] ∧ w.mode = .shared)) := by
    rw [← LockRecord.grantsAtOnce_iff, hg]
    simp
  unfold LockRecord.Fits at h ⊢
  dsimp only
  split <;> rename_i hs <;> simp only [hs] at h hu hb hg'
  · exact absurd rfl hu
  · exact absurd (.inl trivial) hg'
  · exact h
  · obtain ⟨hh, hm, hgf, hhead⟩ := h
    refine ⟨hh, hm, hgf, fun x hx => ?_⟩
    cases hq : r.waiters with
    | nil =>
      obtain rfl : w = x := by simpa [hq] using hx
      cases hwm : w.mode with
      | exclusive => rfl
      | shared => exact absurd (.inr ⟨trivial, hq, hwm⟩) hg'
    | cons y ys => exact hhead x (by simpa [hq] using hx)
  · exact h
  · exact absurd rfl hb

/-- The rules of joining a queue: what it leaves at the lock, and at each wait. -/
@[simp] theorem LockUnit.lock_joinQueue_self (u : LockUnit) (l : LockId) (p : PortId) (tag : Tag) (m : Mode)
    (limit : BitVec 16) : (u.joinQueue l p tag m limit).lock l = { u.lock l with
      waiters := (u.lock l).waiters ++ [{ port := p, tag := tag, mode := m, remaining := limit, expired := false }] } := by
  simp [LockUnit.joinQueue]

@[simp] theorem LockUnit.lock_joinQueue_ne (u : LockUnit) {l k : LockId} (p : PortId) (tag : Tag) (m : Mode)
    (limit : BitVec 16) (h : k ≠ l) : (u.joinQueue l p tag m limit).lock k = u.lock k := by
  simp [LockUnit.joinQueue, h]

theorem LockUnit.wait_joinQueue (u : LockUnit) (l : LockId) (p q : PortId) (tag : Tag) (m : Mode) (limit : BitVec 16) :
    (u.joinQueue l p tag m limit).wait q = if q = p then some l else u.wait q := by
  simp [LockUnit.joinQueue, LockUnit.wait_setWait]

@[simp] theorem LockUnit.held_joinQueue (u : LockUnit) (l : LockId) (p q : PortId) (tag : Tag) (m : Mode)
    (limit : BitVec 16) : (u.joinQueue l p tag m limit).held q = u.held q := rfl

/-- An ACQUIRE that passes its checks joins the queue (R27, R30). -/
theorem LockUnit.Law.joinQueue {u : LockUnit} (h : u.Law) {l : LockId} {p : PortId} (tag : Tag) {m : Mode}
    (limit : BitVec 16) (hu : (u.lock l).state ≠ .undefined) (hb : (u.lock l).state ≠ .broken)
    (hentry : ∀ e ∈ u.held p, e.lock ≠ l) (hwait : u.wait p = none) (hroom : u.places p < 8)
    (hg : (u.lock l).grantsAtOnce m = false) : (u.joinQueue l p tag m limit).Law := by
  obtain ⟨hlaw, hlive, hnodup, hdef, hwaits, hapart, hrooms⟩ := h
  have hno : ∀ k, ∀ w ∈ (u.lock k).waiters, w.port ≠ p := fun k w hw e => by
    have := (hwaits p k).2 ⟨w, hw, e⟩
    rw [hwait] at this
    cases this
  refine ⟨fun k => ?_, fun q k m' => ?_, hnodup, fun q e he => ?_, fun q k => ?_, fun q k hq e he => ?_, fun q => ?_⟩
  · by_cases hk : k = l
    · subst hk
      obtain ⟨hfits, hparams, hholders, hqueue, hlease⟩ := (LockRecord.law_iff _).1 (hlaw k)
      rw [LockUnit.lock_joinQueue_self]
      refine (LockRecord.law_iff _).2 ⟨hfits.join _ hu hb hg, hparams, hholders, ?_, hlease⟩
      simp only [List.map_append, List.map_cons, List.map_nil]
      exact List.nodup_append.2 ⟨hqueue, by simp, by simpa using hno k⟩
    · rw [LockUnit.lock_joinQueue_ne _ _ _ _ _ hk]; exact hlaw k
  · by_cases hk : k = l
    · subst hk; simpa using hlive q k m'
    · simpa [hk] using hlive q k m'
  · by_cases hk : e.lock = l
    · simpa [hk] using hu
    · simpa [hk] using hdef q e he
  · rw [LockUnit.wait_joinQueue]
    by_cases hk : k = l
    · subst hk
      rw [LockUnit.lock_joinQueue_self]
      by_cases hq : q = p
      · subst hq; simp
      · have hq' : ¬p = q := fun e => hq e.symm
        simpa [hq, hq', or_and_right, exists_or] using hwaits q k
    · rw [LockUnit.lock_joinQueue_ne _ _ _ _ _ hk]
      by_cases hq : q = p
      · subst hq
        have hk' : ¬l = k := fun e => hk e.symm
        simpa [hk'] using hno k
      · simpa [hq] using hwaits q k
  · rw [LockUnit.wait_joinQueue] at hq
    by_cases hqp : q = p
    · subst hqp
      obtain rfl : l = k := by simpa using hq
      exact hentry e he
    · exact hapart q k (by simpa [hqp] using hq) e he
  · have hr := hrooms q
    simp only [LockUnit.places, LockUnit.held_joinQueue, LockUnit.wait_joinQueue] at hr hroom ⊢
    by_cases hq : q = p
    · subst hq
      simp only [hwait, Option.isSome_none, Bool.false_eq_true, if_false] at hroom
      simp only [if_true, Option.isSome_some]
      omega
    · simpa [hq] using hr

/-- ACQUIRE-x and TRY-x (R15 to R18, R30). -/
theorem LockUnit.Law.seek {u : LockUnit} (h : u.Law) (p : PortId) (op : LockOp) (m : Mode) (tryOnly : Bool)
    (limit : BitVec 16) : (u.seek p op m tryOnly limit).unit.Law := by
  rw [LockUnit.seek]
  split
  · exact h
  · rename_i l hl
    obtain ⟨-, hu⟩ := LockUnit.definedLock_eq_some.1 hl
    split
    · exact h
    · rename_i hpass
      obtain ⟨hb, hentry, hwait, hroom, -⟩ := (LockUnit.refusal_eq_none_iff u p l tryOnly).1 hpass
      rw [LockUnit.entry_eq_none] at hentry
      obtain ⟨hfits, -⟩ := (LockRecord.law_iff _).1 (h.record l)
      have hnot : u.wait p ≠ some l := fun e => hwait (by cases tryOnly <;> simp [LockUnit.waitStands, e])
      split
      · rename_i hg
        refine ((h.agree hu).grant m hentry hnot hroom).law ?_
        rw [LockUnit.lock_grant_self]
        exact hfits.grant hg
      · rename_i hg
        split
        · exact h
        · rename_i htry
          have hnone : u.wait p = none := by
            simpa [LockUnit.waitStands, htry] using hwait
          exact h.joinQueue op.tag limit hu hb hentry hnone hroom (by simpa using hg)

/-! ### Revocation -/

theorem LockUnit.markRevoked_locks (l : LockId) (hs : List Holder) (u : LockUnit) (p : PortId) :
    ((u.markRevoked l hs).held p).map HoldEntry.lock = (u.held p).map HoldEntry.lock := by
  rw [LockUnit.markRevoked_held]
  split
  · rw [revokeEntries, List.map_map]
    refine List.map_congr_left fun e _ => ?_
    by_cases he : e.lock = l <;> simp [he]
  · rfl

/-- A live entry among entries of which those for `l` became revoked is a live entry for another lock. -/
theorem mem_revokeEntries_live (l k : LockId) (m : Mode) (es : List HoldEntry) :
    (∃ e ∈ revokeEntries l es, e.lock = k ∧ e.revoked = false ∧ e.mode = m) ↔
      k ≠ l ∧ ∃ e ∈ es, e.lock = k ∧ e.revoked = false ∧ e.mode = m := by
  simp only [revokeEntries, List.mem_map, exists_exists_and_eq_and]
  constructor
  · rintro ⟨e, he, hk, hr, hm⟩
    by_cases hel : e.lock = l
    · simp [hel] at hr
    · simp only [hel, if_false] at hk hr hm
      exact ⟨fun e' => hel (hk.trans e'), e, he, hk, hr, hm⟩
  · rintro ⟨hkl, e, he, hk, hr, hm⟩
    have hel : e.lock ≠ l := fun e' => hkl (hk.symm.trans e')
    exact ⟨e, he, by rw [if_neg hel]; exact ⟨hk, hr, hm⟩⟩

/-- The holders' entries are revoked and the holder set is emptied (R72, steps 1 to 3). -/
theorem LockUnit.Law.emptyRevoked {u : LockUnit} (h : u.Law) {l : LockId} (hs : (u.lock l).state ≠ .undefined) :
    ((u.markRevoked l (u.lock l).holders).emptyHolders l (u.lock l).taint).Agree l [] := by
  have hlock := LockUnit.markRevoked_lock l (u.lock l).holders u
  have hheld := LockUnit.markRevoked_held l (u.lock l).holders u
  have hagree := h.agree hs
  refine hagree.rehold (fun k hk => by simp [LockUnit.emptyHolders, hk, hlock])
    (LockUnit.markRevoked_wait l _ u) (by simp [LockUnit.emptyHolders, LockRecord.stopLease, hlock])
    (by simp [LockUnit.emptyHolders, LockRecord.stopLease, hlock])
    (by simp [LockUnit.emptyHolders, LockRecord.stopLease, hlock]) (by simp)
    (by simp [LockUnit.emptyHolders, LockRecord.stopLease, LockRecord.LeaseFits])
    (fun p => ?_) (fun p m => ?_) (fun p k m hk => ?_)
  · exact (LockUnit.markRevoked_locks l _ u p).symm ▸ List.Sublist.refl _
  · rw [LockUnit.holders_emptyHolders]
    show (∃ e ∈ (u.markRevoked l (u.lock l).holders).held p, _) ↔ _
    rw [hheld]
    split
    · rw [mem_revokeEntries_live]
      simp
    · rename_i hno
      rw [hagree.live]
      simp only [List.not_mem_nil, iff_false]
      exact fun hin => hno (List.any_eq_true.2 ⟨_, hin, by simp⟩)
  · show (∃ e ∈ (u.markRevoked l (u.lock l).holders).held p, _) ↔ _
    rw [hheld]
    split
    · rw [mem_revokeEntries_live]
      simp [hk]
    · exact Iff.rfl

/-- A revocation (R72). -/
theorem LockUnit.Law.revoke {u : LockUnit} (h : u.Law) {l : LockId} (hs : (u.lock l).state ≠ .undefined) :
    (u.revoke l).unit.Law :=
  (h.emptyRevoked hs).settle_law (by simp)

/-- A lease expiry (R69 to R71). -/
theorem LockUnit.Law.leaseExpiry {u : LockUnit} (h : u.Law) (l : LockId) : (u.leaseExpiry l).unit.Law := by
  obtain ⟨hfits, hparams, hholders, hqueue, hlease⟩ := (LockRecord.law_iff _).1 (h.record l)
  rw [LockUnit.leaseExpiry]
  split
  · rename_i hdue
    have hrun : (u.lock l).leaseRunning = true := by
      rw [LockRecord.leaseDue, Bool.and_eq_true] at hdue
      exact hdue.1
    have hs : (u.lock l).state ≠ .undefined := by
      rcases hfits.held (hlease.1 hrun) with hs | hs <;> simp [hs]
    split
    · refine h.setLock ((LockRecord.law_iff _).2 ⟨hfits, hparams, hholders, hqueue, fun hr => ?_, fun _ => rfl⟩) rfl rfl
        fun _ _ _ _ => hs
      cases hr
    · exact h.revoke hs
    · exact h
  · exact h

/-! ### The port-gone claim -/

theorem LockUnit.clearWaits_lock (ws : List Waiter) : ∀ (u : LockUnit) (k : LockId),
    (ws.foldl (fun u w => u.setWait w.port none) u).lock k = u.lock k := by
  induction ws with
  | nil => exact fun _ _ => rfl
  | cons w ws ih => exact fun u k => ih (u.setWait w.port none) k

theorem LockUnit.Agree.clearWaits {l : LockId} (ws : List Waiter) :
    ∀ {u : LockUnit}, u.Agree l ws → (ws.foldl (fun u w => u.setWait w.port none) u).Agree l [] := by
  induction ws with
  | nil => exact fun h => h
  | cons w ws ih => exact fun h => ih h.clearWait

/-- An emptied lock breaks (R42, R158). -/
theorem LockUnit.Agree.breakLock_law {u : LockUnit} {l : LockId} (h : u.Agree l []) (hh : (u.lock l).holders = []) :
    (u.breakLock l).1.Law := by
  have htaken := h.take (gone := (u.lock l).waiters) (kept := []) (by rw [List.append_nil])
  have hbroken := htaken.setLock (r := { u.lock l with state := .broken, waiters := [] }) (by simp) (by simp)
    ⟨by simp, h.service.2⟩ h.lease
  rw [LockUnit.setLock_setLock] at hbroken
  refine hbroken.clearWaits.law ?_
  rw [LockUnit.clearWaits_lock, LockUnit.lock_setLock_self]
  exact ⟨hh, rfl⟩

/-- An orphan with its entry gone (R156 to R158). -/
theorem LockUnit.Law.orphan {u : LockUnit} (h : u.Law) {p : PortId} {e : HoldEntry} (he : e ∈ u.held p)
    (hr : e.revoked = false) (hm : e.mode = .exclusive) : ((u.dropEntry p e.lock).orphan e.lock).1.Law := by
  have hempty := h.emptyExclusive he hr hm true
  rw [LockUnit.orphan]
  split
  · exact hempty.breakLock_law (by simp)
  · exact hempty.settle_law (by simp)
  · exact hempty.settle_law (by simp)

/-! Writing the hold list of a port commutes with what leaves that port alone. -/

theorem LockUnit.setHeld_comm (u : LockUnit) {p q : PortId} (es fs : List HoldEntry) (h : q ≠ p) :
    (u.setHeld p es).setHeld q fs = (u.setHeld q fs).setHeld p es := by
  have hne : (p : Nat) ≠ q := fun e => h (Fin.ext e.symm)
  simp [LockUnit.setHeld, Vector.set_comm _ _ hne]

theorem LockUnit.grant_setHeld (u : LockUnit) (l : LockId) {p q : PortId} (m : Mode) (es : List HoldEntry) (h : q ≠ p) :
    (u.setHeld p es).grant l q m = (u.grant l q m).setHeld p es := by
  rw [LockUnit.grant, LockUnit.held_setHeld_ne _ _ h, LockUnit.setHeld_setLock, LockUnit.setHeld_comm _ _ _ h]
  rfl

theorem LockUnit.grantWaiters_setHeld (l : LockId) (p : PortId) (es : List HoldEntry) (ws : List Waiter) :
    ∀ u : LockUnit, (∀ w ∈ ws, w.port ≠ p) →
      ((u.setHeld p es).grantWaiters l ws).1 = (u.grantWaiters l ws).1.setHeld p es := by
  induction ws with
  | nil => exact fun _ _ => rfl
  | cons w ws ih =>
    intro u h
    have hstep : ((u.setHeld p es).setWait w.port none).grant l w.port w.mode =
        ((u.setWait w.port none).grant l w.port w.mode).setHeld p es :=
      LockUnit.grant_setHeld (u.setWait w.port none) l w.mode es (h w List.mem_cons_self)
    rw [LockUnit.grantWaiters, LockUnit.grantWaiters]
    dsimp only
    rw [hstep]
    exact ih _ fun x hx => h x (List.mem_cons_of_mem _ hx)

theorem LockUnit.grantRun_setHeld (u : LockUnit) (l : LockId) (p : PortId) (es : List HoldEntry)
    (h : ∀ w ∈ (u.lock l).waiters, w.port ≠ p) : ((u.setHeld p es).grantRun l).1 = (u.grantRun l).1.setHeld p es :=
  LockUnit.grantWaiters_setHeld l p es (u.lock l).run (u.setLock l { u.lock l with waiters := (u.lock l).behindRun })
    fun w hw => h w (List.takeWhile_subset _ hw)

theorem LockUnit.settle_setHeld (u : LockUnit) (l : LockId) (p : PortId) (es : List HoldEntry)
    (h : ∀ w ∈ (u.lock l).waiters, w.port ≠ p) : ((u.setHeld p es).settle l).1 = (u.settle l).1.setHeld p es := by
  rw [LockUnit.settle, LockUnit.settle, LockUnit.lock_setHeld]
  split
  · rfl
  · split
    · rfl
    · cases hq : (u.lock l).waiters with
      | nil => simp [LockUnit.grantHead, hq]
      | cons w ws =>
        cases hm : w.mode with
        | exclusive =>
          rw [LockUnit.grantHead_exclusive u l hq hm, LockUnit.grantHead_exclusive (u.setHeld p es) l hq hm]
          exact LockUnit.grantWaiters_setHeld l p es [w] (u.setLock l { u.lock l with waiters := ws })
            (by simpa using h w (by simp [hq]))
        | shared =>
          rw [LockUnit.grantHead_shared u l hq hm, LockUnit.grantHead_shared (u.setHeld p es) l hq hm]
          exact LockUnit.grantRun_setHeld u l p es h

theorem LockUnit.leaveShared_setHeld (u : LockUnit) (l : LockId) (p q : PortId) (es : List HoldEntry)
    (h : ∀ w ∈ (u.lock l).waiters, w.port ≠ p) :
    ((u.setHeld p es).leaveShared l q).1 = (u.leaveShared l q).1.setHeld p es := by
  rw [LockUnit.leaveShared, LockUnit.leaveShared]
  dsimp only
  rw [LockUnit.lock_setHeld]
  split
  · exact LockUnit.settle_setHeld (u.setLock l { (u.lock l).stopLease with holders := [] }) l p es
      fun w hw => h w (by simpa [LockRecord.stopLease] using hw)
  · rfl

theorem LockUnit.clearWaits_setHeld (p : PortId) (es : List HoldEntry) (ws : List Waiter) : ∀ u : LockUnit,
    ws.foldl (fun u w => u.setWait w.port none) (u.setHeld p es) =
      (ws.foldl (fun u w => u.setWait w.port none) u).setHeld p es := by
  induction ws with
  | nil => exact fun _ => rfl
  | cons w ws ih => exact fun u => ih (u.setWait w.port none)

theorem LockUnit.orphan_setHeld (u : LockUnit) (l : LockId) (p : PortId) (es : List HoldEntry)
    (h : ∀ w ∈ (u.lock l).waiters, w.port ≠ p) : ((u.setHeld p es).orphan l).1 = (u.orphan l).1.setHeld p es := by
  have hsettle : (((u.setHeld p es).emptyHolders l true).settle l).1 = ((u.emptyHolders l true).settle l).1.setHeld p es :=
    LockUnit.settle_setHeld (u.emptyHolders l true) l p es
      fun w hw => h w (by simpa [LockUnit.emptyHolders, LockRecord.stopLease] using hw)
  rw [LockUnit.orphan, LockUnit.orphan]
  rw [LockUnit.lock_setHeld]
  split
  · exact LockUnit.clearWaits_setHeld p es ((u.emptyHolders l true).lock l).waiters
      ((u.emptyHolders l true).setLock l { (u.emptyHolders l true).lock l with state := .broken, waiters := [] })
  · exact hsettle
  · exact hsettle

/-- One hold entry of the claim: the port's entries yet to come stand, this one is done with (R155, R156). -/
theorem LockUnit.claimEntry_law {u : LockUnit} {p : PortId} {e : HoldEntry} {es : List HoldEntry}
    (h : (u.setHeld p (e :: es)).Law) (hw : u.wait p = none) : ((u.claimEntry p e).unit.setHeld p es).Law := by
  have he : e ∈ (u.setHeld p (e :: es)).held p := by simp
  have hdrop : (u.setHeld p (e :: es)).dropEntry p e.lock = u.setHeld p es := by
    have hnodup := h.nodup p
    rw [LockUnit.held_setHeld_self, List.map_cons, List.nodup_cons] at hnodup
    have hkeep : es.filter (fun x => x.lock != e.lock) = es :=
      List.filter_eq_self.2 fun x hx => bne_iff_ne.2 fun hl => hnodup.1 (hl ▸ List.mem_map_of_mem hx)
    rw [LockUnit.dropEntry, LockUnit.held_setHeld_self, List.filter_cons_of_neg (by simp), hkeep]
    simp [LockUnit.setHeld]
  have hno : ∀ w ∈ (u.lock e.lock).waiters, w.port ≠ p := fun w hm hp => by
    have hwait := (h.waits.1 p e.lock).2 ⟨w, hm, hp⟩
    rw [LockUnit.wait_setHeld, hw] at hwait
    cases hwait
  rw [LockUnit.claimEntry]
  split
  · rename_i hr
    rw [← hdrop]
    exact h.dropRevoked he hr
  · rename_i hr
    have hr : e.revoked = false := by simpa using hr
    split
    · rename_i hm
      have hlaw := h.leaveShared he hr hm
      rwa [hdrop, LockUnit.leaveShared_setHeld u _ _ _ _ hno] at hlaw
    · rename_i hm
      have hlaw := h.orphan he hr hm
      rwa [hdrop, LockUnit.orphan_setHeld u _ _ _ hno] at hlaw

/-- A port that does not wait is given no wait by its claim. -/
theorem LockUnit.claimEntry_wait {u : LockUnit} (hu : u.WaitLaw) (p : PortId) (e : HoldEntry) (hw : u.wait p = none) :
    (u.claimEntry p e).unit.wait p = none := by
  obtain ⟨hlaw, htags, -⟩ := LockUnit.claimEntry_ledger u p e hu
  have hnil := (htags p)
  rw [LockUnit.waitTags_of_none hw] at hnil
  have htag := (List.append_eq_nil_iff.1 (List.perm_nil.1 hnil.symm)).1
  cases hwait : (u.claimEntry p e).unit.wait p with
  | none => rfl
  | some l =>
    obtain ⟨w, hm, rfl⟩ := (hlaw.1 _ _).1 hwait
    rw [LockUnit.waitTags_of_mem hlaw hm] at htag
    cases htag

/-- The entries of the claim, one after another (R154, step 2). -/
theorem LockUnit.claimEntries_law (p : PortId) (es : List HoldEntry) : ∀ {u : LockUnit}, (u.setHeld p es).Law →
    u.wait p = none → ((u.claimEntries p es).unit.setHeld p []).Law := by
  induction es with
  | nil => exact fun h _ => h
  | cons e es ih =>
    intro u h hw
    exact ih (LockUnit.claimEntry_law h hw) (LockUnit.claimEntry_wait (u := u) h.waits p e hw)

/-- A port-gone claim (R154). -/
theorem LockUnit.Law.claim {u : LockUnit} (h : u.Law) (p : PortId) : (u.claim p).unit.Law := by
  have hdrop := h.dropWait p
  have hwait : (u.dropWait p).1.wait p = none := by
    rw [LockUnit.dropWait]
    split
    · assumption
    · rename_i l _
      rw [LockUnit.removeWaiter]
      split
      · obtain ⟨-, -, -, hkeep⟩ := LockUnit.grantRun_onlyGrants (((u.setLock l { u.lock l with
          waiters := (u.lock l).waiters.filter (fun w => w.port != p) }).setWait p none)) l
        exact (hkeep p).elim (·.trans (by simp)) id
      · simp
  have hself : (u.dropWait p).1.setHeld p ((u.dropWait p).1.held p) = (u.dropWait p).1 := by
    simp [LockUnit.setHeld, LockUnit.held]
  exact LockUnit.claimEntries_law p _ (by rw [hself]; exact hdrop) hwait

/-! ### Counted writes -/

/-- Marks on the entries of a port that leave lock, mode and revocation alone. -/
theorem LockUnit.Law.markEntries {u : LockUnit} (h : u.Law) (p : PortId) {f : HoldEntry → HoldEntry}
    (hf : ∀ e, (f e).lock = e.lock ∧ (f e).revoked = e.revoked ∧ (f e).mode = e.mode) :
    (u.setHeld p ((u.held p).map f)).Law := by
  obtain ⟨hlaw, hlive, hnodup, hdef, hwaits, hapart, hroom⟩ := h
  refine ⟨hlaw, fun q k m => ?_, fun q => ?_, fun q e he => ?_, hwaits, fun q k hk e he => ?_, fun q => ?_⟩
  · rw [LockUnit.lock_setHeld, ← hlive]
    by_cases hq : q = p
    · subst hq; simp [hf]
    · simp [hq]
  · by_cases hq : q = p
    · subst hq; simpa [Function.comp_def, hf] using hnodup q
    · simpa [hq] using hnodup q
  · by_cases hq : q = p
    · subst hq
      rw [LockUnit.held_setHeld_self, List.mem_map] at he
      obtain ⟨e', he', rfl⟩ := he
      rw [(hf e').1]
      exact hdef q e' he'
    · exact hdef q e (by simpa [hq] using he)
  · by_cases hq : q = p
    · subst hq
      rw [LockUnit.held_setHeld_self, List.mem_map] at he
      obtain ⟨e', he', rfl⟩ := he
      rw [(hf e').1]
      exact hapart q k hk e' he'
    · exact hapart q k hk e (by simpa [hq] using he)
  · have hlen : ((u.setHeld p ((u.held p).map f)).held q).length = (u.held q).length := by
      by_cases hq : q = p
      · subst hq; simp
      · simp [hq]
    have hr := hroom q
    rw [LockUnit.places] at hr ⊢
    rw [hlen]
    exact hr

/-- The failure of a counted write at its lock (R110, steps 1 and 2). -/
theorem LockUnit.Law.failGuarded {u : LockUnit} (h : u.Law) (p : PortId) (l : LockId) : (u.failGuarded p l).Law := by
  have htaint : (u.setLock l { u.lock l with taint := true }).Law :=
    h.setLock (h.record l) rfl rfl fun q e he hl => by rw [← hl]; exact h.service_of_entry he
  refine htaint.markEntries p fun e => ?_
  split
  · exact ⟨rfl, rfl, rfl⟩
  · exact ⟨rfl, rfl, rfl⟩

/-- A counted write raises the count of an EXCLUSIVE lock (R108). -/
theorem LockUnit.Law.countGuarded {u : LockUnit} (h : u.Law) {p : PortId} {l : LockId} (hp : u.holdsExclusive p l = true) :
    (u.countGuarded l).Law := by
  obtain ⟨e, he, hr, hm⟩ := (u.holdsExclusive_iff p l).1 hp
  obtain ⟨rfl, hmem⟩ := LockUnit.entry_lock he
  obtain ⟨hfits, hparams, hrest⟩ := (LockRecord.law_iff _).1 (h.record e.lock)
  obtain ⟨hs, hh⟩ := hfits.holders_of_exclusive ((h.live p e.lock .exclusive).1 ⟨e, hmem, rfl, hr, hm⟩)
  refine h.setLock ((LockRecord.law_iff _).2 ⟨?_, hparams, hrest⟩) rfl rfl fun _ _ _ _ => by simp [hs]
  simp only [LockRecord.Fits, hs]
  exact ⟨p, hh⟩

/-- A record whose count falls fits its state, unless it drains and the count reaches 0 (R77). -/
theorem LockRecord.Fits.lowerFlight {r : LockRecord} (h : r.Fits) (hd : ¬(r.state = .draining ∧ r.guardFlight - 1 = 0)) :
    ({ r with guardFlight := r.guardFlight - 1 } : LockRecord).Fits := by
  unfold LockRecord.Fits at h ⊢
  dsimp only
  split <;> rename_i hs <;> simp only [hs] at h hd
  · obtain ⟨hh, hq, hp, hg⟩ := h
    exact ⟨hh, hq, hp, by simp [hg]⟩
  · obtain ⟨hh, hq, hg⟩ := h
    exact ⟨hh, hq, by simp [hg]⟩
  · exact h
  · obtain ⟨hh, hm, hg, hhead⟩ := h
    exact ⟨hh, hm, by simp [hg], hhead⟩
  · obtain ⟨hh, -⟩ := h
    exact ⟨hh, fun h0 => hd ⟨trivial, h0⟩⟩
  · exact h

/-- The completion of a counted write at its guarding lock (R77, R110). -/
theorem LockUnit.Law.completeGuarded {u : LockUnit} (h : u.Law) (l : LockId) (e : FlightEntry) (failed : Bool) :
    (u.completeGuarded l e failed).unit.Law := by
  have h1 : (if failed then u.failGuarded e.port l else u).Law := by
    split
    · exact h.failGuarded e.port l
    · exact h
  rw [LockUnit.completeGuarded]
  dsimp only
  generalize (if failed then u.failGuarded e.port l else u) = v at h1
  obtain ⟨hfits, hparams, hrest⟩ := (LockRecord.law_iff _).1 (h1.record l)
  rw [LockUnit.lock_setLock_self]
  split
  · rename_i hd
    obtain ⟨hs, -⟩ := hd
    have hs : (v.lock l).state = .draining := hs
    have hagree := h1.agree (l := l) (by simp [hs])
    refine (hagree.setLock (r := { v.lock l with guardFlight := (v.lock l).guardFlight - 1 }) rfl rfl hagree.service
      hagree.lease).settle_law ?_
    simp only [LockRecord.Fits, hs] at hfits
    simpa using hfits.1
  · rename_i hd
    refine h1.setLock ((LockRecord.law_iff _).2 ⟨hfits.lowerFlight hd, hparams, hrest⟩) rfl rfl fun q x hx hl => ?_
    rw [← hl]
    exact h1.service_of_entry hx

end Sys2Proof.Machine
end

section
/-! Every command keeps the lock unit's law: which commands leave the lock unit alone, and what the others do to it. -/

namespace Sys2Proof.Machine

/-! ### What leaves the lock unit alone -/

@[simp] theorem State.applyLock_lockUnit (s : State) (e : LockEffect) : (s.applyLock e).lockUnit = e.unit := by
  rw [State.applyLock_eq]

@[simp] theorem State.advance_lockUnit (s : State) (p : PortId) (own : List Frame) :
    (s.advance p own).lockUnit = s.lockUnit := by
  obtain ⟨fs, n, -, h⟩ := State.advance_writes s p own
  rw [h]
  rfl

@[simp] theorem State.finishOp_lockUnit (s : State) (p : PortId) (e : LockEffect) : (s.finishOp p e).lockUnit = e.unit :=
  (State.finishOp_spec s p e).1

@[simp] theorem State.portReset_lockUnit (s : State) (p : PortId) (close : Bool) :
    (s.portReset p close).lockUnit = s.lockUnit := rfl

@[simp] theorem State.linkLoss_lockUnit (s : State) (p : PortId) : (s.linkLoss p).lockUnit = s.lockUnit := rfl

@[simp] theorem State.endReset_lockUnit (s : State) (p : PortId) : (s.endReset p).lockUnit = s.lockUnit := by
  obtain ⟨l, sup, h, -⟩ := State.endReset_writes s p
  rw [h]
  rfl

@[simp] theorem State.takeOpen_lockUnit (s : State) (p : PortId) : (s.takeOpen p).lockUnit = s.lockUnit := by
  rw [State.takeOpen]
  dsimp only
  split
  · split <;> rfl
  · rfl
  · rfl

@[simp] theorem State.takeClose_lockUnit (s : State) (p : PortId) : (s.takeClose p).lockUnit = s.lockUnit := by
  rw [State.takeClose]
  split <;> rfl

@[simp] theorem State.takeSilence_lockUnit (s : State) (p : PortId) : (s.takeSilence p).lockUnit = s.lockUnit := by
  rw [State.takeSilence]
  split <;> rfl

@[simp] theorem State.takeBadFrame_lockUnit (s : State) (p : PortId) : (s.takeBadFrame p).lockUnit = s.lockUnit := by
  rw [State.takeBadFrame]
  dsimp only
  split
  · rfl
  · rfl
  · split <;> rfl

@[simp] theorem State.takeRequest_lockUnit (s : State) (p : PortId) (kind : BitVec 4) (tag : Tag) (size : Byte) (addr : Word)
    (data : List Byte) : (s.takeRequest p kind tag size addr data).lockUnit = s.lockUnit := by
  rw [State.takeRequest]
  split
  · rfl
  · rfl
  · dsimp only
    split
    · rfl
    · exact State.advance_lockUnit _ p []

@[simp] theorem State.issueHead_lockUnit (s : State) (p : PortId) (q : Request) (guard : Option LockId) :
    (s.issueHead p q guard).lockUnit = s.lockUnit := State.advance_lockUnit _ p _

@[simp] theorem State.dropHead_lockUnit (s : State) (p : PortId) (q : Request) : (s.dropHead p q).lockUnit = s.lockUnit :=
  State.advance_lockUnit _ p _

@[simp] theorem State.completeRead_lockUnit (s : State) (e : FlightEntry) (failed : Bool) (data : List Byte) :
    (s.completeRead e failed data).lockUnit = s.lockUnit := by
  rw [State.completeRead, State.endReset_lockUnit, State.report_lockUnit]
  rfl

@[simp] theorem State.completeAtPort_lockUnit (s : State) (e : FlightEntry) :
    (s.completeAtPort e).lockUnit = s.lockUnit := State.endReset_lockUnit _ _

@[simp] theorem State.setPortItems_lockUnit (s : State) (p : PortId) (enabled : Bool) (cls : PortClass) (limit : BitVec 16) :
    (s.setPortItems p enabled cls limit).lockUnit = s.lockUnit := by
  rw [State.setPortItems]
  dsimp only
  split <;> rfl

@[simp] theorem State.latch_lockUnit (s : State) (x : Snapshot) : (s.latch x).lockUnit = s.lockUnit := by
  rw [State.latch]
  split <;> rfl

/-! ### Events and commands under the law -/

/-- The lock unit at power-on obeys its law (Table 9-2). -/
theorem LockUnit.Law.atReset : State.reset.lockUnit.Law := by
  have hlock : ∀ l, State.reset.lockUnit.lock l = LockRecord.powerOn := fun l => by simp [LockUnit.lock, State.reset]
  have hheld : ∀ p, State.reset.lockUnit.held p = [] := fun p => by simp [LockUnit.held, State.reset]
  have hwait : ∀ p, State.reset.lockUnit.wait p = none := fun p => by simp [LockUnit.wait, State.reset]
  refine ⟨fun l => ?_, fun p l m => ?_, fun p => ?_, fun p e he => ?_, fun p l => ?_, fun p l hw => ?_, fun p => ?_⟩
  · rw [hlock]
    exact (LockRecord.law_iff _).2
      ⟨⟨rfl, rfl, rfl, rfl⟩, fun h => absurd rfl h, List.nodup_nil, List.nodup_nil, fun h => (by cases h), fun _ => rfl⟩
  · simp [hlock, hheld, LockRecord.powerOn]
  · simp [hheld]
  · simp [hheld] at he
  · simp [hlock, hwait, LockRecord.powerOn]
  · simp [hwait] at hw
  · simp [LockUnit.places, hheld, hwait]

/-- An event keeps the law when its effect does. -/
theorem lockLaw_of_running {s t : State} {k : State → State}
    (he : (.next (s.running k) : Host.Outcome State Fault Refusal) = .next t) (h : s.lockUnit.Law)
    (hk : (k s).lockUnit.Law) : t.lockUnit.Law := by
  obtain rfl := Host.Outcome.next.inj he
  rw [State.running]
  split
  · exact h
  · exact hk

/-- A command keeps the law when its effect does. -/
theorem lockLaw_of_command {s t : State} {k : State → State}
    (he : (.next (s.command k) : Host.Outcome State Fault Refusal) = .next t) (h : s.lockUnit.Law)
    (hk : ∀ r : State, r.lockUnit.Law → (k r).lockUnit.Law) : t.lockUnit.Law := by
  obtain rfl := Host.Outcome.next.inj he
  rw [State.command]
  split
  · exact h
  · split
    · exact h
    · exact hk _ h
    · exact hk _ h

/-- An operation taken at the lock unit keeps the law when its effect does. -/
theorem State.takeOp_law (s : State) (p : PortId) (k : LockOpKind) {f : LockOp → LockEffect} (h : s.lockUnit.Law)
    (hf : ∀ op, (f op).unit.Law) : (s.takeOp p k f).lockUnit.Law := by
  rw [State.takeOp]
  split
  · exact h
  · split
    · rw [State.finishOp_lockUnit]
      exact hf _
    · exact h

/-- INSPECT and a wrong-direction access change no record (R13, R19). -/
theorem LockUnit.inspect_unit (u : LockUnit) (p : PortId) (op : LockOp) : (u.inspect p op).unit = u := by
  rw [LockUnit.inspect]
  split <;> rfl

theorem Waiter.lowered_port (w : Waiter) : w.lowered.port = w.port := by
  unfold Waiter.lowered
  split <;> rfl

theorem Waiter.lowered_mode (w : Waiter) : w.lowered.mode = w.mode := by
  unfold Waiter.lowered
  split <;> rfl

/-- A tick lowers counters only, so the record fits its state as before (R67). -/
theorem LockRecord.Fits.ticked {r : LockRecord} (h : r.Fits) : r.ticked.Fits := by
  unfold LockRecord.Fits at h ⊢
  dsimp only [LockRecord.ticked]
  split <;> rename_i hs <;> simp only [hs] at h
  · obtain ⟨hh, hq, hrest⟩ := h
    exact ⟨hh, by simp [hq], hrest⟩
  · obtain ⟨hh, hq, hrest⟩ := h
    exact ⟨hh, by simp [hq], hrest⟩
  · exact h
  · obtain ⟨hh, hm, hg, hhead⟩ := h
    refine ⟨hh, hm, hg, fun w hw => ?_⟩
    rw [List.head?_map, Option.map_eq_some_iff] at hw
    obtain ⟨x, hx, rfl⟩ := hw
    rw [Waiter.lowered_mode]
    exact hhead x hx
  · exact h
  · obtain ⟨hh, hq⟩ := h
    exact ⟨hh, by simp [hq]⟩

/-- A tick claim at a record (R67). -/
theorem LockUnit.Law.ticked {u : LockUnit} (h : u.Law) (l : LockId) : (u.setLock l (u.lock l).ticked).Law := by
  obtain ⟨hfits, hparams, hholders, hqueue, hrun, hstopped⟩ := (LockRecord.law_iff _).1 (h.record l)
  have hports : (u.lock l).ticked.waiters.map Waiter.port = (u.lock l).waiters.map Waiter.port := by
    rw [LockRecord.ticked, List.map_map]
    exact List.map_congr_left fun w _ => w.lowered_port
  refine h.setLock ((LockRecord.law_iff _).2 ⟨hfits.ticked, hparams, hholders, hports ▸ hqueue, hrun, fun hr => ?_⟩) rfl
    hports fun p e he hl => ?_
  · have hr' : (u.lock l).leaseRunning = false := hr
    simp [LockRecord.ticked, hr', hstopped hr']
  · rw [← hl]
    exact h.service_of_entry he

/-! ### The lock commands of the supervisor -/

/-- DEFINE_LOCK at an UNDEFINED or FREE lock (R4). -/
theorem LockUnit.Law.define {u : LockUnit} (h : u.Law) (l : LockId) (q : LockParams) :
    ((u.lock l).state = .undefined →
      (u.setLock l { LockRecord.powerOn with state := .free, params := some q }).Law) ∧
    ((u.lock l).state = .free → (u.setLock l { u.lock l with params := some q }).Law) := by
  obtain ⟨hfits, -, hholders, hqueue, hlease⟩ := (LockRecord.law_iff _).1 (h.record l)
  constructor
  · intro hs
    simp only [LockRecord.Fits, hs] at hfits
    refine h.setLock ((LockRecord.law_iff _).2 ⟨⟨rfl, rfl, rfl⟩, fun _ => by simp, List.nodup_nil, List.nodup_nil,
      fun hr => (by cases hr), fun _ => rfl⟩) hfits.1.symm (by rw [hfits.2.1]; rfl) fun _ _ _ _ => by simp
  · intro hs
    refine h.setLock ((LockRecord.law_iff _).2 ⟨?_, fun _ => by simp, hholders, hqueue, hlease⟩) rfl rfl
      fun _ _ _ _ => by simp [hs]
    simpa only [LockRecord.Fits, hs] using hfits

/-- When a lock may leave service as far as its state goes (R5 check 1). -/
theorem LockRecord.removable_iff (r : LockRecord) :
    r.removable = true ↔ r.state = .free ∨ (r.state = .broken ∧ r.guardFlight = 0) := by
  simp [LockRecord.removable]

/-- A lock that may leave service has neither holders nor waiters (R5). -/
theorem LockRecord.Fits.empty_of_removable {r : LockRecord} (h : r.Fits) (hr : r.removable = true) :
    r.holders = [] ∧ r.waiters = [] := by
  rcases r.removable_iff.1 hr with hs | ⟨hs, -⟩
  · simp only [LockRecord.Fits, hs] at h
    exact ⟨h.1, h.2.1⟩
  · simpa only [LockRecord.Fits, hs] using h

theorem LockUnit.inSomeList_iff (u : LockUnit) (l : LockId) :
    u.inSomeList l = true ↔ ∃ p, ∃ e ∈ u.held p, e.lock = l := by
  simp [LockUnit.inSomeList]

/-- UNDEFINE_LOCK of a removable lock that no hold list names (R5). -/
theorem LockUnit.Law.undefine {u : LockUnit} (h : u.Law) {l : LockId} (hr : (u.lock l).removable = true)
    (hno : u.inSomeList l = false) : (u.setLock l LockRecord.powerOn).Law := by
  obtain ⟨hfits, -⟩ := (LockRecord.law_iff _).1 (h.record l)
  obtain ⟨hh, hq⟩ := hfits.empty_of_removable hr
  refine h.setLock ((LockRecord.law_iff _).2 ⟨⟨rfl, rfl, rfl, rfl⟩, fun hs => absurd rfl hs, List.nodup_nil, List.nodup_nil,
    fun hr => (by cases hr), fun _ => rfl⟩) hh.symm (by rw [hq]; rfl) fun p e he hl => ?_
  rw [(u.inSomeList_iff l).2 ⟨p, e, he, hl⟩] at hno
  cases hno

/-- REPAIR_LOCK of a BROKEN lock without counted writes (R160). -/
theorem LockUnit.Law.repair {u : LockUnit} (h : u.Law) {l : LockId} (hs : (u.lock l).state = .broken)
    (hg : (u.lock l).guardFlight = 0) : (u.setLock l { (u.lock l).stopLease with state := .free }).Law := by
  obtain ⟨hfits, hparams, hholders, hqueue, -⟩ := (LockRecord.law_iff _).1 (h.record l)
  simp only [LockRecord.Fits, hs] at hfits
  refine h.setLock ((LockRecord.law_iff _).2 ⟨⟨hfits.1, hfits.2, hg⟩, fun _ => hparams (by simp [hs]), hholders, hqueue,
    fun hr => (by cases hr), fun _ => rfl⟩) rfl rfl fun _ _ _ _ => by simp

/-- DEFINE_LOCK (R4, R180). -/
theorem execDefineLock_law {lock level : Byte} {lease : BitVec 16} {lp op : Byte} {s t : State} (h : s.lockUnit.Law)
    (he : execDefineLock lock level lease lp op s = .next t) : t.lockUnit.Law := by
  refine lockLaw_of_command he h fun r hr => ?_
  split
  · rename_i l q _ _
    split
    · rename_i hs
      exact (hr.define l q).1 hs
    · rename_i hs
      exact (hr.define l q).2 hs
    · exact hr
    · exact hr
    · exact hr
    · exact hr
  · exact hr

/-- UNDEFINE_LOCK (R5). -/
theorem execUndefineLock_law {lock : Byte} {s t : State} (h : s.lockUnit.Law) (he : execUndefineLock lock s = .next t) :
    t.lockUnit.Law := by
  refine lockLaw_of_command he h fun r hr => ?_
  split
  · exact hr
  · split
    · exact hr
    · rename_i hrem
      split
      · exact hr
      · split
        · exact hr
        · rename_i hlist
          exact hr.undefine (by simpa using hrem) (by simpa using hlist)

/-- A revocation by command (R78). -/
theorem State.forceRevoke_law {s : State} (h : s.lockUnit.Law) {l : LockId} (hs : (s.lockUnit.lock l).state ≠ .undefined) :
    (s.forceRevoke l).lockUnit.Law := by
  rw [State.forceRevoke, State.finish_lockUnit, State.applyLock_lockUnit]
  exact h.revoke hs

/-- FORCE_RELEASE (R78). -/
theorem execForceRelease_law {lock : Byte} {s t : State} (h : s.lockUnit.Law) (he : execForceRelease lock s = .next t) :
    t.lockUnit.Law := by
  refine lockLaw_of_command he h fun r hr => ?_
  split
  · exact hr
  · split
    · rename_i hs
      exact State.forceRevoke_law hr (by simp [hs])
    · rename_i hs
      exact State.forceRevoke_law hr (by simp [hs])
    · exact hr
    · exact hr
    · exact hr
    · exact hr

/-- REPAIR_LOCK (R160). -/
theorem execRepairLock_law {lock : Byte} {s t : State} (h : s.lockUnit.Law) (he : execRepairLock lock s = .next t) :
    t.lockUnit.Law := by
  refine lockLaw_of_command he h fun r hr => ?_
  split
  · exact hr
  · split
    · exact hr
    · rename_i hs
      split
      · exact hr
      · rename_i hg
        exact hr.repair (not_not.1 hs) (not_not.1 hg)

/-! ### Counted writes and the port-gone claim -/

/-- INCREMENT_CLAIM (R75, R143). -/
theorem State.claimHead_law {s : State} (h : s.lockUnit.Law) (p : PortId) (q : Request) (l : LockId) (w : WindowId)
    (policy : WritePolicy) : (s.claimHead p q l w policy).lockUnit.Law := by
  rw [State.claimHead]
  split
  · rename_i hp
    rw [State.issueHead_lockUnit]
    exact h.countGuarded hp
  · dsimp only
    split
    · rw [State.issueHead_lockUnit, State.report_lockUnit]
      exact h
    · rw [State.dropHead_lockUnit, State.report_lockUnit]
      exact h

/-- The completion of a write (R147, R77). -/
theorem State.completeWrite_law {s : State} (h : s.lockUnit.Law) (e : FlightEntry) (failed : Bool) :
    (s.completeWrite e failed).lockUnit.Law := by
  rw [State.completeWrite]
  split
  · rw [State.completeAtPort_lockUnit, State.report_lockUnit]
    exact h
  · rw [State.completeAtPort_lockUnit, State.applyLock_lockUnit]
    exact h.completeGuarded _ e failed

/-- A completion (R145). -/
theorem State.complete_law {s : State} (h : s.lockUnit.Law) (e : FlightEntry) (rest : List FlightEntry) (result : MemResult)
    (data : List Byte) : (s.complete e rest result data).lockUnit.Law := by
  rw [State.complete]
  dsimp only
  split
  · rw [State.completeRead_lockUnit]
    exact h
  · exact State.completeWrite_law (s := { s with memPort := { s.memPort with table := rest } }) h e _

/-- PORT_GONE_CLAIM (R154). -/
theorem State.takeClaim_law {s : State} (h : s.lockUnit.Law) (p : PortId) : (s.takeClaim p).lockUnit.Law := by
  rw [State.takeClaim, State.endReset_lockUnit, State.setPort_lockUnit, State.applyLock_lockUnit]
  exact h.claim p

/-! ### Every command -/

/-- Every command keeps the lock unit's law. -/
theorem exec_lockLaw {c : Instr} {s t : State} (h : s.lockUnit.Law) (he : exec c s = .next t) : t.lockUnit.Law := by
  cases c with
  | powerOn _ _ => obtain rfl := Host.Outcome.next.inj he; exact .atReset
  | resetAssert _ => obtain rfl := Host.Outcome.next.inj he; exact .atReset
  | resetRelease straps =>
    have he : execResetRelease straps s = .next t := he
    rw [execResetRelease] at he
    split at he
    · obtain rfl := Host.Outcome.next.inj he; exact .atReset
    · obtain rfl := Host.Outcome.next.inj he; exact h
  | openFrame p => exact lockLaw_of_running he h (by simpa using h)
  | closeFrame p => exact lockLaw_of_running he h (by simpa using h)
  | request p kind tag size addr data =>
    refine lockLaw_of_running he h ?_
    split
    · simpa using h
    · simpa using h
  | badFrame p => exact lockLaw_of_running he h (by simpa using h)
  | linkSilence p => exact lockLaw_of_running he h (by simpa using h)
  | frameSent p => exact lockLaw_of_running he h h
  | acquireExclusive p => exact lockLaw_of_running he h (s.takeOp_law p _ h fun op => h.seek p op _ _ _)
  | acquireShared p => exact lockLaw_of_running he h (s.takeOp_law p _ h fun op => h.seek p op _ _ _)
  | tryExclusive p => exact lockLaw_of_running he h (s.takeOp_law p _ h fun op => h.seek p op _ _ _)
  | tryShared p => exact lockLaw_of_running he h (s.takeOp_law p _ h fun op => h.seek p op _ _ _)
  | inspect p => exact lockLaw_of_running he h (s.takeOp_law p _ h fun op => by rw [LockUnit.inspect_unit]; exact h)
  | release p => exact lockLaw_of_running he h (s.takeOp_law p _ h fun op => h.release p op)
  | releaseLatest p => exact lockLaw_of_running he h (s.takeOp_law p _ h fun op => h.releaseLatest p op)
  | withdraw p => exact lockLaw_of_running he h (s.takeOp_law p _ h fun op => h.withdraw p op)
  | misuseAccess p => exact lockLaw_of_running he h (s.takeOp_law p _ h fun _ => h)
  | lockClockTick => exact lockLaw_of_running he h h
  | tickClaim l =>
    refine lockLaw_of_running he h ?_
    split
    · exact h
    · exact h.ticked l
  | leaseExpiry l =>
    exact lockLaw_of_running he h (by rw [State.applyLock_lockUnit]; exact h.leaseExpiry l)
  | waitTimeout l p =>
    exact lockLaw_of_running he h (by rw [State.applyLock_lockUnit]; exact h.timeout l p)
  | issueDecision =>
    refine lockLaw_of_running he h ?_
    split <;> exact h
  | issue =>
    refine lockLaw_of_running he h ?_
    split
    · simpa using h
    · simpa using h
    · exact h
    · exact h
    · exact h
  | incrementClaim =>
    refine lockLaw_of_running he h ?_
    split
    · exact State.claimHead_law h _ _ _ _ _
    · exact h
    · exact h
    · exact h
    · exact h
  | issueSlotFreed =>
    refine lockLaw_of_running he h ?_
    split <;> exact h
  | memCompletion session result data =>
    refine lockLaw_of_running he h ?_
    split
    · split
      · exact h
      · exact State.complete_law h _ _ result data
    · exact h
  | portGoneClaim p =>
    refine lockLaw_of_running he h ?_
    split
    · exact State.takeClaim_law h p
    · exact h
  | faultReport src =>
    refine lockLaw_of_running he h ?_
    split <;> exact h
  | badCommandFrame bytes =>
    refine lockLaw_of_command he h fun r hr => ?_
    split <;> exact hr
  | commandWriteNak =>
    have he : execCommandWriteNak s = .next t := he
    rw [execCommandWriteNak] at he
    split at he
    · obtain rfl := Host.Outcome.next.inj he; exact h
    · split at he <;> (obtain rfl := Host.Outcome.next.inj he; exact h)
  | setClock period =>
    refine lockLaw_of_command he h fun r hr => ?_
    split <;> exact hr
  | setPort port enable cls limit =>
    refine lockLaw_of_command he h fun r hr => ?_
    split
    · simpa using hr
    · exact hr
  | setWeight k =>
    refine lockLaw_of_command he h fun r hr => ?_
    split <;> exact hr
  | defineWindow window base pages kind lockRef wp rp =>
    refine lockLaw_of_command he h fun r hr => ?_
    split
    · split <;> exact hr
    · exact hr
  | enableWindow window =>
    refine lockLaw_of_command he h fun r hr => ?_
    split
    · exact hr
    · split
      · exact hr
      · exact hr
      · split
        · exact hr
        · split <;> exact hr
  | disableWindow window =>
    refine lockLaw_of_command he h fun r hr => ?_
    split
    · exact hr
    · split
      · exact hr
      · exact hr
      · split <;> exact hr
  | readWindow window =>
    refine lockLaw_of_command he h fun r hr => ?_
    split <;> exact hr
  | defineLock lock level lease lp op => exact execDefineLock_law h he
  | undefineLock lock => exact execUndefineLock_law h he
  | forceRelease lock => exact execForceRelease_law h he
  | repairLock lock => exact execRepairLock_law h he
  | resetPort port =>
    refine lockLaw_of_command he h fun r hr => ?_
    split
    · exact hr
    · split <;> exact hr
  | snapshotLock lock =>
    refine lockLaw_of_command he h fun r hr => ?_
    split
    · exact hr
    · simpa using hr
  | snapshotPort port =>
    refine lockLaw_of_command he h fun r hr => ?_
    split
    · exact hr
    · simpa using hr
  | readSnapshot =>
    refine lockLaw_of_command he h fun r hr => ?_
    split <;> exact hr
  | readFault =>
    refine lockLaw_of_command he h fun r hr => ?_
    split <;> exact hr
  | readAlert => exact lockLaw_of_command he h fun r hr => hr
  | setAlertMask classes => exact lockLaw_of_command he h fun r hr => hr
  | clearAlert classes => exact lockLaw_of_command he h fun r hr => hr
  | readStatus => exact lockLaw_of_command he h fun r hr => hr

end Sys2Proof.Machine

open Sys2Proof Sys2Proof.Machine

/-- Settles O59: the front command keeps the law, whichever it is. -/
theorem lockLawKept : Obligations.LockLawKept := by
  intro s t h hstep
  rw [step] at hstep
  split at hstep
  · obtain rfl := Host.Outcome.next.inj hstep
    exact h
  · rename_i c rest _
    exact exec_lockLaw (s := { s with pending := rest }) h hstep

end

section
/-! The operations taken at the lock unit, one rule for each case of each operation (R13 to R24), and how a command that takes one
comes to its effect. -/

namespace Sys2Proof.Machine

/-! ### A command takes the operation its port offers -/

/-- An operation on offer is taken with the effect of its kind. -/
theorem exec_slotCommand {c : Instr} {p : PortId} {k : LockOpKind} {op : LockOp} {s : State}
    (hc : slotCommand c = some (p, k)) (ho : s.offers p op) (hk : op.kind = k) :
    exec c s = .next (s.finishOp p (s.slotEffect p k op)) := by
  obtain ⟨hlow, hhanded⟩ := ho
  have htake : ∀ f : State → LockOp → LockEffect,
      (.next (s.running fun s => s.takeOp p k (f s)) : Host.Outcome State Fault Refusal) = .next (s.finishOp p (f s op)) :=
    fun f => by rw [State.running_of_high _ _ hlow, State.takeOp_of s p k _ op hhanded hk]
  cases c
  case acquireExclusive => cases hc; exact htake fun s op => s.lockUnit.seek p op .exclusive false (s.port p).waitLimit
  case acquireShared => cases hc; exact htake fun s op => s.lockUnit.seek p op .shared false (s.port p).waitLimit
  case tryExclusive => cases hc; exact htake fun s op => s.lockUnit.seek p op .exclusive true (s.port p).waitLimit
  case tryShared => cases hc; exact htake fun s op => s.lockUnit.seek p op .shared true (s.port p).waitLimit
  case inspect => cases hc; exact htake fun s op => s.lockUnit.inspect p op
  case release => cases hc; exact htake fun s op => s.lockUnit.release p op
  case releaseLatest => cases hc; exact htake fun s op => s.lockUnit.releaseLatest p op
  case withdraw => cases hc; exact htake fun s op => s.lockUnit.withdraw p op
  case misuseAccess => cases hc; exact htake fun s op => s.lockUnit.misuse p op
  all_goals cases hc

/-- The same, with the effect written out. -/
theorem exec_slotCommand_taken {c : Instr} {p : PortId} {k : LockOpKind} {op : LockOp} {s : State} {e : LockEffect}
    (hc : slotCommand c = some (p, k)) (ho : s.offers p op) (hk : op.kind = k) (he : s.slotEffect p k op = e) :
    ∃ t, exec c s = .next t ∧ OpTaken s t p e :=
  ⟨_, exec_slotCommand hc ho hk, he ▸ State.finishOp_spec s p _⟩

theorem slotCommand_seekCommand (p : PortId) (m : Mode) (tryOnly : Bool) :
    slotCommand (seekCommand p m tryOnly) = some (p, seekKind m tryOnly) := by
  cases m <;> cases tryOnly <;> rfl

theorem State.slotEffect_seekKind (s : State) (p : PortId) (m : Mode) (tryOnly : Bool) (op : LockOp) :
    s.slotEffect p (seekKind m tryOnly) op = s.lockUnit.seek p op m tryOnly (s.port p).waitLimit := by
  cases m <;> cases tryOnly <;> rfl

/-- An acquisition on offer is taken with the effect of `LockUnit.seek`. -/
theorem exec_seekCommand_taken {p : PortId} {m : Mode} {tryOnly : Bool} {op : LockOp} {s : State} {e : LockEffect}
    (ho : s.offers p op) (hk : op.kind = seekKind m tryOnly)
    (he : s.lockUnit.seek p op m tryOnly (s.port p).waitLimit = e) :
    ∃ t, exec (seekCommand p m tryOnly) s = .next t ∧ OpTaken s t p e :=
  exec_slotCommand_taken (slotCommand_seekCommand p m tryOnly) ho hk ((s.slotEffect_seekKind p m tryOnly op).trans he)

/-! ### Slots without a defined lock -/

theorem LockUnit.definedLock_eq_none {u : LockUnit} {n : Nat} :
    u.definedLock n = none ↔ ∀ l : LockId, l.val = n → (u.lock l).state = .undefined := by
  rw [Option.eq_none_iff_forall_ne_some]
  refine forall_congr' fun l => ?_
  rw [ne_eq, LockUnit.definedLock_eq_some, LockUnit.names, not_and, not_not]

/-- The word for a slot without a defined lock: the lock field is 0 above 63, and so are generation and taint (R25). -/
theorem LockUnit.slotWord_of_undefined {u : LockUnit} {n : Nat} (h : u.definedLock n = none) (o : LockOutcome) (m : Mode) :
    u.slotWord n o m = resultWord o (if n ≤ 63 then n else 0) m 0 false := by
  rw [LockUnit.slotWord]
  cases hs : slotLock n with
  | none =>
    rw [slotLock_eq_none] at hs
    rw [if_neg (not_le.2 hs)]
  | some l =>
    rw [slotLock_eq_some] at hs
    have hle : n ≤ 63 := by have := l.isLt; omega
    dsimp only
    rw [if_pos (LockUnit.definedLock_eq_none.1 h l hs), if_pos hle, hs]

/-- The word for a slot that names a defined lock (R25). -/
theorem LockUnit.slotWord_of_names {u : LockUnit} {n : Nat} {l : LockId} (h : u.names n l) (o : LockOutcome) (m : Mode) :
    u.slotWord n o m = u.wordFor l o m := by
  obtain ⟨hn, hs⟩ := h
  rw [LockUnit.slotWord, slotLock_eq_some.2 hn]
  exact if_neg hs

theorem LockUnit.undefinedAnswer_eq {u : LockUnit} (p : PortId) (op : LockOp) (m : Mode) (h : u.definedLock op.number = none) :
    u.undefinedAnswer p op m =
      { unit := u, answers := [⟨p, op.tag, resultWord .undefined (if op.number ≤ 63 then op.number else 0) m 0 false⟩],
        faults := [misuseFault p op] } := by
  rw [LockUnit.undefinedAnswer, LockUnit.slotWord_of_undefined h]

theorem LockUnit.seek_undefined {u : LockUnit} (p : PortId) {op : LockOp} (m : Mode) (tryOnly : Bool) (limit : BitVec 16)
    (h : u.definedLock op.number = none) : u.seek p op m tryOnly limit = u.undefinedAnswer p op m := by
  rw [LockUnit.seek, h]

theorem LockUnit.release_undefined {u : LockUnit} (p : PortId) {op : LockOp} (h : u.definedLock op.number = none) :
    u.release p op = u.undefinedAnswer p op .exclusive := by
  rw [LockUnit.release, h]

theorem LockUnit.withdraw_undefined {u : LockUnit} (p : PortId) {op : LockOp} (h : u.definedLock op.number = none) :
    u.withdraw p op = u.undefinedAnswer p op .exclusive := by
  rw [LockUnit.withdraw, h]

theorem LockUnit.inspect_undefined {u : LockUnit} (p : PortId) {op : LockOp} (h : u.definedLock op.number = none) :
    u.inspect p op = { unit := u, answers := [⟨p, op.tag, 0⟩], faults := [misuseFault p op] } := by
  rw [LockUnit.inspect, h]

/-! ### The checks of an acquisition, each with those before it passed (R16) -/

theorem LockUnit.refusal_broken {u : LockUnit} {l : LockId} (p : PortId) (tryOnly : Bool) (hb : (u.lock l).state = .broken) :
    u.refusal p l tryOnly = some .broken := by
  rw [LockUnit.refusal, if_pos hb]

theorem LockUnit.refusal_held {u : LockUnit} {p : PortId} {l : LockId} (tryOnly : Bool) (hb : (u.lock l).state ≠ .broken)
    (he : u.entry p l ≠ none) : u.refusal p l tryOnly = some .held := by
  rw [LockUnit.refusal, if_neg hb, if_pos (Option.isSome_iff_ne_none.2 he)]

theorem LockUnit.refusal_pending {u : LockUnit} {p : PortId} {l : LockId} {tryOnly : Bool}
    (hb : (u.lock l).state ≠ .broken) (he : u.entry p l = none) (hw : u.waitStands p l tryOnly) :
    u.refusal p l tryOnly = some .pending := by
  rw [LockUnit.refusal, if_neg hb, if_neg (by simp [he]), if_pos ((u.waitStands_iff p l tryOnly).2 hw)]

theorem LockUnit.refusal_full {u : LockUnit} {p : PortId} {l : LockId} {tryOnly : Bool}
    (hb : (u.lock l).state ≠ .broken) (he : u.entry p l = none) (hw : ¬u.waitStands p l tryOnly) (hr : 8 ≤ u.places p) :
    u.refusal p l tryOnly = some .full := by
  rw [← u.waitStands_iff] at hw
  rw [LockUnit.refusal, if_neg hb, if_neg (by simp [he]), if_neg hw, if_pos (show Config.holdPlaces ≤ u.places p from hr)]

theorem LockUnit.refusal_order {u : LockUnit} {p : PortId} {l : LockId} (hb : (u.lock l).state ≠ .broken)
    (he : u.entry p l = none) (hw : ¬u.waitStands p l false) (hr : u.places p < 8) (ho : u.outOfOrder p l) :
    u.refusal p l false = some .order := by
  rw [← u.waitStands_iff] at hw
  rw [LockUnit.refusal, if_neg hb, if_neg (by simp [he]), if_neg hw,
    if_neg (show ¬Config.holdPlaces ≤ u.places p from not_le.2 hr), if_pos ⟨rfl, (u.outOfOrder_iff p l).1 ho⟩]

/-! ### Acquisitions on a defined lock -/

section
variable {u : LockUnit} {p : PortId} {op : LockOp} {l : LockId} (m : Mode) {tryOnly : Bool} (limit : BitVec 16)

/-- A refused acquisition is answered, and only ORDER is a fault (R16, R58). -/
theorem LockUnit.seek_refused (hn : u.names op.number l) {o : LockOutcome} (hr : u.refusal p l tryOnly = some o) :
    u.seek p op m tryOnly limit =
      { unit := u, answers := [⟨p, op.tag, u.wordFor l o m⟩],
        faults := if o = .order then [orderFault p op l (u.lock l).generation] else [] } := by
  rw [LockUnit.seek, LockUnit.definedLock_eq_some.2 hn]
  dsimp only
  rw [hr]

/-- An acquisition granted at once (R17, R18). -/
theorem LockUnit.seek_granted (hn : u.names op.number l) (hp : u.passes p l tryOnly)
    (hg : (u.lock l).grantsAtOnce m = true) : u.seek p op m tryOnly limit =
      { unit := u.grant l p m, answers := [⟨p, op.tag, (u.grant l p m).wordFor l .granted m⟩] } := by
  rw [LockUnit.seek, LockUnit.definedLock_eq_some.2 hn]
  dsimp only
  rw [(u.refusal_eq_none_iff p l tryOnly).2 hp]
  exact if_pos hg

/-- A TRY that cannot be granted at once (R17). -/
theorem LockUnit.seek_busy (hn : u.names op.number l) (hp : u.passes p l true)
    (hg : (u.lock l).grantsAtOnce m = false) :
    u.seek p op m true limit = { unit := u, answers := [⟨p, op.tag, u.wordFor l .busy m⟩] } := by
  rw [LockUnit.seek, LockUnit.definedLock_eq_some.2 hn]
  dsimp only
  rw [(u.refusal_eq_none_iff p l true).2 hp]
  dsimp only
  rw [hg]
  rfl

/-- An ACQUIRE that cannot be granted at once joins the queue (R17, R30). -/
theorem LockUnit.seek_joins (hn : u.names op.number l) (hp : u.passes p l false)
    (hg : (u.lock l).grantsAtOnce m = false) :
    u.seek p op m false limit = { unit := u.joinQueue l p op.tag m limit } := by
  rw [LockUnit.seek, LockUnit.definedLock_eq_some.2 hn]
  dsimp only
  rw [(u.refusal_eq_none_iff p l false).2 hp]
  dsimp only
  rw [hg]
  rfl

end

/-! ### Giving back -/

theorem LockUnit.giveBack_revoked (u : LockUnit) (p : PortId) (tag : Tag) {e : HoldEntry} (hr : e.revoked = true) :
    u.giveBack p tag e =
      { unit := u.dropEntry p e.lock,
        answers := [⟨p, tag, (u.dropEntry p e.lock).wordFor e.lock .revoked e.mode⟩] } := by
  rw [LockUnit.giveBack]
  exact if_pos hr

theorem LockUnit.giveBack_shared (u : LockUnit) (p : PortId) (tag : Tag) {e : HoldEntry} (hr : e.revoked = false)
    (hm : e.mode = .shared) : u.giveBack p tag e =
      { unit := ((u.dropEntry p e.lock).leaveShared e.lock p).1,
        answers := ⟨p, tag, (u.dropEntry p e.lock).wordFor e.lock .released .shared⟩ ::
          ((u.dropEntry p e.lock).leaveShared e.lock p).2 } := by
  rw [LockUnit.giveBack]
  dsimp only
  rw [if_neg (by simp [hr]), hm]

theorem LockUnit.giveBack_exclusive (u : LockUnit) (p : PortId) (tag : Tag) {e : HoldEntry} (hr : e.revoked = false)
    (hm : e.mode = .exclusive) {v : LockUnit}
    (hv : (u.dropEntry p e.lock).emptyHolders e.lock (e.loss && (u.lock e.lock).taint) = v) :
    u.giveBack p tag e =
      { unit := (v.settle e.lock).1,
        answers := ⟨p, tag, v.wordFor e.lock (if e.loss then .releasedLoss else .released) .exclusive⟩ ::
          (v.settle e.lock).2 } := by
  rw [LockUnit.giveBack]
  dsimp only
  rw [if_neg (by simp [hr]), hm, LockUnit.lock_dropEntry, hv]

/-- Sharers stay: nothing but the holder set changes (R21). -/
theorem LockUnit.leaveShared_of_staying {u : LockUnit} {l : LockId} {p : PortId}
    (h : (u.lock l).holders.filter (fun x => x.port != p) ≠ []) : u.leaveShared l p =
      (u.setLock l { u.lock l with holders := (u.lock l).holders.filter (fun x => x.port != p) }, []) := by
  rw [LockUnit.leaveShared]
  exact if_neg h

/-- The last one out stops the lease and settles the lock (R21). -/
theorem LockUnit.leaveShared_of_last {u : LockUnit} {l : LockId} {p : PortId}
    (h : (u.lock l).holders.filter (fun x => x.port != p) = []) :
    u.leaveShared l p = (u.setLock l { (u.lock l).stopLease with holders := [] }).settle l := by
  rw [LockUnit.leaveShared]
  exact if_pos h

/-- RELEASE without an entry (R20). -/
theorem LockUnit.release_of_no_entry {u : LockUnit} {p : PortId} {op : LockOp} {l : LockId} (hn : u.names op.number l)
    (he : u.entry p l = none) :
    u.release p op = { unit := u, answers := [⟨p, op.tag, u.wordFor l .notHolder .exclusive⟩] } := by
  rw [LockUnit.release, LockUnit.definedLock_eq_some.2 hn]
  dsimp only
  rw [he]

/-- RELEASE of an entry gives it back (R20 to R22). -/
theorem LockUnit.release_of_entry {u : LockUnit} {p : PortId} {op : LockOp} {l : LockId} (hn : u.names op.number l)
    {e : HoldEntry} (he : u.entry p l = some e) : u.release p op = u.giveBack p op.tag e := by
  rw [LockUnit.release, LockUnit.definedLock_eq_some.2 hn]
  dsimp only
  rw [he]

/-- RELEASE-LATEST with an empty hold list (R23, R61). -/
theorem LockUnit.releaseLatest_of_empty {u : LockUnit} {p : PortId} (op : LockOp) (h : u.held p = []) :
    u.releaseLatest p op = { unit := u, answers := [⟨p, op.tag, resultWord .notHolder 0 .exclusive 0 false⟩] } := by
  rw [LockUnit.releaseLatest, h]
  rfl

/-- RELEASE-LATEST gives the newest entry back (R23). -/
theorem LockUnit.releaseLatest_of_newest {u : LockUnit} {p : PortId} (op : LockOp) {es : List HoldEntry} {e : HoldEntry}
    (h : u.held p = es ++ [e]) : u.releaseLatest p op = u.giveBack p op.tag e := by
  rw [LockUnit.releaseLatest, h, List.getLast?_concat]

/-! ### INSPECT and WITHDRAW on a defined lock -/

theorem LockUnit.inspect_of_names {u : LockUnit} (p : PortId) {op : LockOp} {l : LockId} (hn : u.names op.number l) :
    u.inspect p op =
      { unit := u, answers := [⟨p, op.tag, inspectWord (u.lock l) (relationOf (u.entry p l))⟩] } := by
  rw [LockUnit.inspect, LockUnit.definedLock_eq_some.2 hn]

/-- WITHDRAW without a wait at the lock (R24). -/
theorem LockUnit.withdraw_of_no_wait {u : LockUnit} {p : PortId} {op : LockOp} {l : LockId} (hn : u.names op.number l)
    (hw : u.wait p ≠ some l) :
    u.withdraw p op = { unit := u, answers := [⟨p, op.tag, u.wordFor l .none .exclusive⟩] } := by
  rw [LockUnit.withdraw, LockUnit.definedLock_eq_some.2 hn]
  dsimp only
  rw [if_neg hw]

/-- WITHDRAW of a wait answers both requests (R24, R40). -/
theorem LockUnit.withdraw_of_wait {u : LockUnit} {p : PortId} {op : LockOp} {l : LockId} {w : Waiter}
    (hn : u.names op.number l) (hw : u.wait p = some l) (ho : u.waiterOf l p = some w) :
    u.withdraw p op =
      { unit := (u.removeWaiter l p).1,
        answers := ⟨p, w.tag, u.wordFor l .withdrawn w.mode⟩ :: ⟨p, op.tag, u.wordFor l .withdrawn w.mode⟩ ::
          (u.removeWaiter l p).2 } := by
  rw [LockUnit.withdraw, LockUnit.definedLock_eq_some.2 hn]
  dsimp only
  rw [if_pos hw, ho]

theorem LockUnit.headsShared_iff (u : LockUnit) (l : LockId) (p : PortId) :
    u.headsShared l p ↔ (u.lock l).state = .shared ∧ (u.lock l).waiters.head?.map Waiter.port = some p := by
  rw [LockUnit.headsShared]
  cases (u.lock l).waiters <;> simp

/-- The head of a SHARED lock uncovers the run behind it (R36). -/
theorem LockUnit.removeWaiter_of_head {u : LockUnit} {l : LockId} {p : PortId} (h : u.headsShared l p) :
    u.removeWaiter l p = (u.unqueued l p).grantRun l := by
  rw [LockUnit.removeWaiter]
  exact if_pos ((u.headsShared_iff l p).1 h)

/-- Any other record only leaves (R31, R37). -/
theorem LockUnit.removeWaiter_of_other {u : LockUnit} {l : LockId} {p : PortId} (h : ¬u.headsShared l p) :
    u.removeWaiter l p = (u.unqueued l p, []) := by
  rw [LockUnit.removeWaiter]
  exact if_neg fun hc => h ((u.headsShared_iff l p).2 hc)

/-! ### The operation handed on is no part of its own effect -/

/-- What is handed on under another form is taken with the same effect in the same way. -/
theorem State.finishOp_handed (s : State) (p : PortId) (x : Option LockOp) (e : LockEffect) :
    (s.setPort p { s.port p with handed := x }).finishOp p e = s.finishOp p e := by
  simp [State.finishOp, PortRecord.ownResponses, PortRecord.responsesTo, PortRecord.hasTag]

/-! ### Which part of the lock unit an operation reaches -/

/-- From `u` to `v` an operation of port `p` has acted at lock `l` only: other locks and the port's entries for them stand; the
port's wait stands unless it waited there, or joined the queue; a port that does not wait there is left alone, and any other
port has only gained entries for `l` and perhaps lost its wait. -/
structure LockUnit.ActsAt (u : LockUnit) (p : PortId) (l : LockId) (joins : Prop) (v : LockUnit) : Prop where
  locks : ∀ k, k ≠ l → v.lock k = u.lock k
  entries : ∀ k, k ≠ l → (v.held p).filter (fun e => e.lock == k) = (u.held p).filter (fun e => e.lock == k)
  ownWait : (∀ w ∈ (u.lock l).waiters, w.port ≠ p) → v.wait p = u.wait p ∨ joins ∧ v.wait p = some l
  keeps : ∀ q, q ≠ p → (∀ w ∈ (u.lock l).waiters, w.port ≠ q) → u.KeepsPort q v
  grows : ∀ q, q ≠ p → (∃ es, v.held q = u.held q ++ es ∧ ∀ e ∈ es, e.lock = l) ∧
    (v.wait q = u.wait q ∨ v.wait q = none)

/-- What only grants acts at its lock. -/
theorem LockUnit.OnlyGrants.actsAt {u v : LockUnit} {l : LockId} (h : u.OnlyGrants l v) {p : PortId} {joins : Prop}
    (hown : (∀ w ∈ (u.lock l).waiters, w.port ≠ p) → v.wait p = u.wait p)
    (hkeep : ∀ q, q ≠ p → (∀ w ∈ (u.lock l).waiters, w.port ≠ q) → u.KeepsPort q v) : u.ActsAt p l joins v := by
  obtain ⟨hlocks, -, hheld, hwait⟩ := h
  refine ⟨hlocks, fun k hk => ?_, fun hno => .inl (hown hno), hkeep, fun q _ => ⟨?_, hwait q⟩⟩
  · obtain ⟨es, hes, hl⟩ := hheld p
    have hnil : es.filter (fun e => e.lock == k) = [] :=
      List.filter_eq_nil_iff.2 fun e he hek => hk ((beq_iff_eq.1 hek).symm.trans (hl e he).1)
    rw [hes, List.filter_append, hnil, List.append_nil]
  · obtain ⟨es, hes, hl⟩ := hheld q
    exact ⟨es, hes, fun e he => (hl e he).1⟩

/-- The lock's record may first be written with its queue kept. -/
theorem LockUnit.ActsAt.afterSetLock {u v : LockUnit} {p : PortId} {l : LockId} {joins : Prop} {r : LockRecord}
    (h : (u.setLock l r).ActsAt p l joins v) (hr : r.waiters = (u.lock l).waiters) : u.ActsAt p l joins v where
  locks k hk := (h.locks k hk).trans (LockUnit.lock_setLock_ne u r hk)
  entries := h.entries
  ownWait hno := h.ownWait (by simpa [hr] using hno)
  keeps q hq hno := h.keeps q hq (by simpa [hr] using hno)
  grows := h.grows

/-- The port's entry for the lock may first be dropped. -/
theorem LockUnit.ActsAt.afterDropEntry {u v : LockUnit} {p : PortId} {l : LockId} {joins : Prop}
    (h : (u.dropEntry p l).ActsAt p l joins v) : u.ActsAt p l joins v where
  locks := h.locks
  entries k hk := by
    rw [h.entries k hk, LockUnit.held_dropEntry, if_pos rfl, List.filter_filter]
    refine List.filter_congr fun e _ => ?_
    by_cases he : e.lock = k <;> simp [he, hk]
  ownWait := h.ownWait
  keeps q hq hno := by
    obtain ⟨hheld, hwait⟩ := h.keeps q hq hno
    exact ⟨by rw [hheld, LockUnit.held_dropEntry, if_neg hq], hwait⟩
  grows q hq := by
    obtain ⟨⟨es, hes, hl⟩, hwait⟩ := h.grows q hq
    exact ⟨⟨es, by rw [hes, LockUnit.held_dropEntry, if_neg hq], hl⟩, hwait⟩

/-- An entry is given back at its own lock. -/
theorem LockUnit.giveBack_actsAt (u : LockUnit) (p : PortId) (tag : Tag) (e : HoldEntry) (joins : Prop) :
    u.ActsAt p e.lock joins (u.giveBack p tag e).unit := by
  refine LockUnit.ActsAt.afterDropEntry ?_
  cases hr : e.revoked with
  | true =>
    rw [LockUnit.giveBack_revoked u p tag hr]
    exact (LockUnit.OnlyGrants.refl _ e.lock).actsAt (fun _ => rfl) fun q _ _ => .refl _ q
  | false =>
    cases hm : e.mode with
    | shared =>
      rw [LockUnit.giveBack_shared u p tag hr hm]
      exact (LockUnit.leaveShared_onlyGrants _ e.lock p).actsAt
        (fun hno => (LockUnit.leaveShared_keepsPort _ e.lock p p hno).2)
        fun q _ hno => LockUnit.leaveShared_keepsPort _ e.lock q p hno
    | exclusive =>
      rw [LockUnit.giveBack_exclusive u p tag hr hm rfl]
      refine LockUnit.ActsAt.afterSetLock (r := { ((u.dropEntry p e.lock).lock e.lock).stopLease with
        holders := [], taint := e.loss && (u.lock e.lock).taint }) ?_ rfl
      exact (LockUnit.settle_onlyGrants _ e.lock).actsAt
        (fun hno => (LockUnit.settle_keepsPort _ e.lock p hno).2) fun q _ hno => LockUnit.settle_keepsPort _ e.lock q hno

/-- An acquisition changes nothing, or acts at the lock its slot names. -/
theorem LockUnit.seek_actsAt (u : LockUnit) (p : PortId) (op : LockOp) (m : Mode) (tryOnly : Bool) (limit : BitVec 16) :
    (u.seek p op m tryOnly limit).unit = u ∨ ∃ l : LockId, l.val = op.number ∧
      u.ActsAt p l (tryOnly = false) (u.seek p op m tryOnly limit).unit := by
  rw [LockUnit.seek]
  split
  · exact .inl rfl
  · rename_i l hl
    obtain ⟨hn, -⟩ := LockUnit.definedLock_eq_some.1 hl
    split
    · exact .inl rfl
    · split
      · refine .inr ⟨l, hn, (LockUnit.grant_onlyGrants u l p m).actsAt (fun _ => rfl) fun q hq _ => ?_⟩
        exact LockUnit.grant_keepsPort u l m hq
      · split
        · exact .inl rfl
        · rename_i htry
          refine .inr ⟨l, hn, fun k hk => by simp [hk], fun _ _ => rfl, fun _ => .inr ⟨by simpa using htry, ?_⟩,
            fun q hq _ => ⟨rfl, ?_⟩, fun q hq => ⟨⟨[], by simp, by simp⟩, .inl ?_⟩⟩
          · rw [LockUnit.wait_joinQueue, if_pos rfl]
          · rw [LockUnit.wait_joinQueue, if_neg hq]
          · rw [LockUnit.wait_joinQueue, if_neg hq]

/-- A RELEASE changes nothing, or acts at the lock its slot names. -/
theorem LockUnit.release_actsAt (u : LockUnit) (p : PortId) (op : LockOp) (joins : Prop) :
    (u.release p op).unit = u ∨ ∃ l : LockId, l.val = op.number ∧ u.ActsAt p l joins (u.release p op).unit := by
  rw [LockUnit.release]
  split
  · exact .inl rfl
  · rename_i l hl
    obtain ⟨hn, -⟩ := LockUnit.definedLock_eq_some.1 hl
    split
    · exact .inl rfl
    · rename_i e he
      obtain ⟨rfl, -⟩ := LockUnit.entry_lock he
      exact .inr ⟨e.lock, hn, u.giveBack_actsAt p op.tag e joins⟩

/-- A RELEASE-LATEST changes nothing, or acts at the lock of the newest entry. -/
theorem LockUnit.releaseLatest_actsAt (u : LockUnit) (p : PortId) (op : LockOp) (joins : Prop) :
    (u.releaseLatest p op).unit = u ∨ ∃ l : LockId, (u.held p).getLast?.map HoldEntry.lock = some l ∧
      u.ActsAt p l joins (u.releaseLatest p op).unit := by
  rw [LockUnit.releaseLatest]
  split
  · exact .inl rfl
  · rename_i e he
    exact .inr ⟨e.lock, by rw [he]; rfl, u.giveBack_actsAt p op.tag e joins⟩

/-- A WITHDRAW changes nothing, or acts at the lock its slot names. -/
theorem LockUnit.withdraw_actsAt (u : LockUnit) (p : PortId) (op : LockOp) (joins : Prop) :
    (u.withdraw p op).unit = u ∨ ∃ l : LockId, l.val = op.number ∧ u.ActsAt p l joins (u.withdraw p op).unit := by
  rw [LockUnit.withdraw]
  split
  · exact .inl rfl
  · rename_i l hl
    obtain ⟨hn, -⟩ := LockUnit.definedLock_eq_some.1 hl
    split
    · exact .inl rfl
    · rename_i w hw
      split at hw
      · refine .inr ⟨l, hn, (LockUnit.removeWaiter_onlyGrants u l p).actsAt (fun hno => ?_) fun q hq hno => ?_⟩
        · exact absurd (by simpa using List.find?_some hw) (hno w (List.mem_of_find?_eq_some hw))
        · exact LockUnit.removeWaiter_keepsPort u l hq hno
      · cases hw

/-- Every operation changes nothing, or acts at the lock it reaches (R14, R23). -/
theorem State.slotEffect_actsAt (s : State) (p : PortId) (k : LockOpKind) (op : LockOp) :
    (s.slotEffect p k op).unit = s.lockUnit ∨ ∃ l, s.lockUnit.reaches p k op l ∧
      s.lockUnit.ActsAt p l (k = .acquireExclusive ∨ k = .acquireShared) (s.slotEffect p k op).unit := by
  cases k with
  | acquireExclusive => simpa [LockUnit.reaches, State.slotEffect] using s.lockUnit.seek_actsAt p op .exclusive false _
  | acquireShared => simpa [LockUnit.reaches, State.slotEffect] using s.lockUnit.seek_actsAt p op .shared false _
  | tryExclusive => simpa [LockUnit.reaches, State.slotEffect] using s.lockUnit.seek_actsAt p op .exclusive true _
  | tryShared => simpa [LockUnit.reaches, State.slotEffect] using s.lockUnit.seek_actsAt p op .shared true _
  | inspect => exact .inl (s.lockUnit.inspect_unit p op)
  | release => simpa [LockUnit.reaches, State.slotEffect] using s.lockUnit.release_actsAt p op False
  | releaseLatest => simpa [LockUnit.reaches, State.slotEffect] using s.lockUnit.releaseLatest_actsAt p op False
  | withdraw => simpa [LockUnit.reaches, State.slotEffect] using s.lockUnit.withdraw_actsAt p op False
  | misuse => exact .inl rfl

end Sys2Proof.Machine

open Sys2Proof Sys2Proof.Machine

/-- Settles O16. -/
theorem undefinedAndMisusedSlots : Obligations.UndefinedAndMisusedSlots := by
  intro p op s ho fault answer number
  refine ⟨fun hundef => ?_, fun hk => ?_⟩
  · have hdef : s.lockUnit.definedLock op.number = none := LockUnit.definedLock_eq_none.2 hundef
    refine ⟨fun m tryOnly hk => ?_, fun hk => ?_, fun hk => ?_, fun hk => ?_⟩
    · exact exec_seekCommand_taken ho hk
        ((LockUnit.seek_undefined p m tryOnly _ hdef).trans (LockUnit.undefinedAnswer_eq p op m hdef))
    · exact exec_slotCommand_taken rfl ho hk
        ((LockUnit.release_undefined p hdef).trans (LockUnit.undefinedAnswer_eq p op _ hdef))
    · exact exec_slotCommand_taken rfl ho hk
        ((LockUnit.withdraw_undefined p hdef).trans (LockUnit.undefinedAnswer_eq p op _ hdef))
    · exact exec_slotCommand_taken rfl ho hk (LockUnit.inspect_undefined p hdef)
  · have htaken : ∀ w, s.lockUnit.slotWord op.number .misuse .exclusive = w →
        ∃ t, exec (.misuseAccess p) s = .next t ∧ OpTaken s t p (answer w) := fun w hw =>
      exec_slotCommand_taken rfl ho hk (hw ▸ rfl)
    refine ⟨fun hn => htaken _ ?_, fun l hn hs => htaken _ ?_, fun l hn => htaken _ (LockUnit.slotWord_of_names hn _ _)⟩
    · have hdef : s.lockUnit.definedLock op.number = none :=
        LockUnit.definedLock_eq_none.2 fun l hl => by have := l.isLt; omega
      rw [LockUnit.slotWord_of_undefined hdef, if_neg (not_le.2 hn)]
    · have hdef : s.lockUnit.definedLock op.number = none :=
        LockUnit.definedLock_eq_none.2 fun k hk => by
          obtain rfl : k = l := Fin.ext (hk.trans hn.symm)
          exact hs
      have hle : op.number ≤ 63 := by have := l.isLt; omega
      rw [LockUnit.slotWord_of_undefined hdef, if_pos hle, hn]

/-- Settles O17. -/
theorem acquisitionRefusedInOrder : Obligations.AcquisitionRefusedInOrder := by
  intro p op m tryOnly l s ho hk hn u refused
  have htaken : ∀ o, u.refusal p l tryOnly = some o →
      refused o (if o = .order then [orderFault p op l (u.lock l).generation] else []) := fun o hr =>
    exec_seekCommand_taken ho hk (LockUnit.seek_refused m _ hn hr)
  refine ⟨fun hb => htaken .broken (LockUnit.refusal_broken p tryOnly hb), fun hb => ⟨fun he => ?_, fun he => ⟨fun hw => ?_,
    fun hw => ⟨fun hr => ?_, fun hr ht hord => ?_⟩⟩⟩⟩
  · exact htaken .held (LockUnit.refusal_held tryOnly hb he)
  · exact htaken .pending (LockUnit.refusal_pending hb he hw)
  · exact htaken .full (LockUnit.refusal_full hb he hw hr)
  · subst ht
    exact htaken .order (LockUnit.refusal_order hb he hw hr hord)

/-- Settles O18. -/
theorem acquisitionGrantedAtOnce : Obligations.AcquisitionGrantedAtOnce := by
  intro p op m tryOnly l s ho hk hn hp u r hfree granted
  refine exec_seekCommand_taken ho hk
    ((LockUnit.seek_granted m _ hn hp (((u.lock l).grantsAtOnce_iff m).2 hfree)).trans ?_)
  have hgrant : (u.lock l).grant p m = granted := by
    cases m <;> simp [granted, LockRecord.grant, Mode.held, r]
  rw [LockUnit.wordFor_grant, LockUnit.grant, hgrant]

/-- Settles O19. -/
theorem acquisitionThatMustWait : Obligations.AcquisitionThatMustWait := by
  intro p op m tryOnly l s ho hk hn hp u r hfree hshared
  have hg : (u.lock l).grantsAtOnce m = false := by
    rw [← Bool.not_eq_true, LockRecord.grantsAtOnce_iff]
    rintro (h | h)
    · exact hfree h
    · exact hshared h
  refine ⟨fun ht => ?_, fun ht => ?_⟩
  · subst ht
    exact exec_seekCommand_taken ho hk (LockUnit.seek_busy m _ hn hp hg)
  · subst ht
    exact exec_seekCommand_taken ho hk (LockUnit.seek_joins m _ hn hp hg)

/-- Settles O20. -/
theorem inspectReportsTheRecord : Obligations.InspectReportsTheRecord := by
  intro p op l s ho hk hn relation
  have hrel : relationOf (s.lockUnit.entry p l) = relation := rfl
  exact exec_slotCommand_taken rfl ho hk ((LockUnit.inspect_of_names p hn).trans (by rw [hrel]))

/-- Settles O21. -/
theorem releaseWithoutLiveEntry : Obligations.ReleaseWithoutLiveEntry := by
  intro p op l s ho hk hn u r
  refine ⟨fun he => ?_, fun e he hr => ?_⟩
  · exact exec_slotCommand_taken rfl ho hk (LockUnit.release_of_no_entry hn he)
  · obtain ⟨rfl, -⟩ := LockUnit.entry_lock he
    exact exec_slotCommand_taken rfl ho hk
      ((LockUnit.release_of_entry hn he).trans (LockUnit.giveBack_revoked u p op.tag hr))

/-- Settles O22. -/
theorem releaseOfSharedHold : Obligations.ReleaseOfSharedHold := by
  intro p op l e s ho hk hn he hr hm hg u r staying last word
  obtain ⟨rfl, -⟩ := LockUnit.entry_lock he
  have htaken : ∀ out : LockUnit × List Answer, u.leaveShared e.lock p = out → ∃ t, exec (.release p) s = .next t ∧
      OpTaken s t p { unit := out.1, answers := word :: out.2 } := fun out hout =>
    exec_slotCommand_taken rfl ho hk
      ((LockUnit.release_of_entry hn he).trans
        ((LockUnit.giveBack_shared s.lockUnit p op.tag hr hm).trans (by rw [← hout]; rfl)))
  have hlast : (u.setLock e.lock last).lock e.lock = last := LockUnit.lock_setLock_self _ _ _
  have hflight : ((u.setLock e.lock last).lock e.lock).guardFlight = 0 := by rw [hlast]; exact hg
  refine ⟨fun hstay => htaken _ (LockUnit.leaveShared_of_staying hstay), fun hnil hq => htaken (_, []) ?_,
    fun hnil hq => htaken _ ?_⟩
  · refine (LockUnit.leaveShared_of_last hnil).trans ?_
    refine (LockUnit.settle_of_no_waiters (u.setLock e.lock last) e.lock hflight (by rw [hlast]; exact hq)).trans ?_
    rw [hlast]
    exact congrArg (·, []) (LockUnit.setLock_setLock u e.lock last _)
  · refine (LockUnit.leaveShared_of_last hnil).trans ?_
    exact LockUnit.settle_of_waiters (u.setLock e.lock last) e.lock hflight (by rw [hlast]; exact hq)

/-- Settles O23. -/
theorem releaseOfExclusiveHold : Obligations.ReleaseOfExclusiveHold := by
  intro p op l e s ho hk hn he hr hm hg u r emptied word
  obtain ⟨rfl, -⟩ := LockUnit.entry_lock he
  have hempty : u.emptyHolders e.lock (e.loss && (s.lockUnit.lock e.lock).taint) = u.setLock e.lock emptied := by
    cases hl : e.loss <;> simp [LockUnit.emptyHolders, LockRecord.stopLease, emptied, r, u, hl, LockUnit.without]
  have hlock : (u.setLock e.lock emptied).lock e.lock = emptied := LockUnit.lock_setLock_self _ _ _
  have hword : (u.setLock e.lock emptied).wordFor e.lock (if e.loss then .releasedLoss else .released) .exclusive =
      word.word := by
    rw [LockUnit.wordFor, hlock]
  have htaken : ∀ out : LockUnit × List Answer, (u.setLock e.lock emptied).settle e.lock = out →
      ∃ t, exec (.release p) s = .next t ∧ OpTaken s t p { unit := out.1, answers := word :: out.2 } := fun out hout =>
    exec_slotCommand_taken rfl ho hk ((LockUnit.release_of_entry hn he).trans
      ((LockUnit.giveBack_exclusive s.lockUnit p op.tag hr hm hempty).trans (by rw [hout, hword])))
  have hflight : ((u.setLock e.lock emptied).lock e.lock).guardFlight = 0 := by rw [hlock]; exact hg
  refine ⟨fun hq => htaken (_, []) ?_, fun hq => htaken _ ?_⟩
  · refine (LockUnit.settle_of_no_waiters (u.setLock e.lock emptied) e.lock hflight (by rw [hlock]; exact hq)).trans ?_
    rw [hlock]
    exact congrArg (·, []) (LockUnit.setLock_setLock u e.lock emptied _)
  · exact LockUnit.settle_of_waiters (u.setLock e.lock emptied) e.lock hflight (by rw [hlock]; exact hq)

/-- Settles O24. -/
theorem releaseLatestTakesNewest : Obligations.ReleaseLatestTakesNewest := by
  intro p op s ho hk
  refine ⟨fun hnil => ?_, fun es e hheld he hs => ?_⟩
  · exact exec_slotCommand_taken rfl ho hk (LockUnit.releaseLatest_of_empty op hnil)
  · let named : LockOp := { op with kind := .release, number := e.lock.val }
    have hlatest : s.slotEffect p .releaseLatest op = s.lockUnit.giveBack p op.tag e :=
      LockUnit.releaseLatest_of_newest op hheld
    refine ⟨s.finishOp p (s.lockUnit.giveBack p op.tag e), ?_, ?_⟩
    · rw [← hlatest]
      exact exec_slotCommand rfl ho hk
    · have hoffers : (s.setPort p { s.port p with handed := some named }).offers p named := ⟨ho.1, by simp⟩
      have hrelease : (s.setPort p { s.port p with handed := some named }).slotEffect p .release named =
          s.lockUnit.giveBack p op.tag e := LockUnit.release_of_entry (op := named) ⟨rfl, hs⟩ he
      rw [← State.finishOp_handed s p (some named), ← hrelease]
      exact exec_slotCommand rfl hoffers rfl

/-- Settles O25. -/
theorem withdrawCancelsTheWait : Obligations.WithdrawCancelsTheWait := by
  intro p op l s ho hk hn u r
  refine ⟨fun hw => ?_, fun hw w hwo => ⟨fun hh => ?_, fun hh => ?_⟩⟩
  · exact exec_slotCommand_taken rfl ho hk (LockUnit.withdraw_of_no_wait hn hw)
  · exact exec_slotCommand_taken rfl ho hk
      ((LockUnit.withdraw_of_wait hn hw hwo).trans (by rw [LockUnit.removeWaiter_of_other hh]; rfl))
  · exact exec_slotCommand_taken rfl ho hk
      ((LockUnit.withdraw_of_wait hn hw hwo).trans (by rw [LockUnit.removeWaiter_of_head hh]; rfl))

/-- Settles O26: an operation changes nothing, or acts at the lock it reaches. -/
theorem slotOperationFrame : Obligations.SlotOperationFrame := by
  intro c p k op s hc ho hk u waitsThere
  refine ⟨_, exec_slotCommand hc ho hk, State.finishOp_spec s p _, ?_⟩
  rw [State.finishOp_lockUnit]
  rcases s.slotEffect_actsAt p k op with hsame | ⟨l, hl, hact⟩
  · rw [hsame]
    exact ⟨fun _ _ => ⟨rfl, rfl⟩, fun _ => .inl rfl, fun _ _ _ => ⟨rfl, rfl⟩,
      fun _ _ => ⟨⟨[], by simp [u], by simp⟩, .inl rfl⟩⟩
  · have hne : ∀ k', ¬u.reaches p k op k' → k' ≠ l := fun k' hk' e => hk' (e ▸ hl)
    have hno : ∀ q, ¬waitsThere q → ∀ w ∈ (u.lock l).waiters, w.port ≠ q := fun q hq w hw e => hq ⟨l, hl, w, hw, e⟩
    refine ⟨fun k' hk' => ⟨hact.locks k' (hne k' hk'), hact.entries k' (hne k' hk')⟩, fun hp => ?_,
      fun q hq hw => hact.keeps q hq (hno q hw), fun q hq => ?_⟩
    · exact (hact.ownWait (hno p hp)).imp id fun ⟨hjoin, hw⟩ => ⟨hjoin, l, hl, hw⟩
    · obtain ⟨⟨es, hes, hlock⟩, hwait⟩ := hact.grows q hq
      exact ⟨⟨es, hes, fun e he => (hlock e he).symm ▸ hl⟩, hwait⟩

/-- Settles O27. -/
theorem grantsFromTheQueue : Obligations.GrantsFromTheQueue := by
  refine ⟨fun u l hh => ⟨fun hg => ?_, fun hg hq => ?_, fun w ws hg hq hm => ?_, fun w ws hg hq hm => ?_⟩,
    fun u l => ⟨fun hnil => ?_, fun hrun => ?_, ?_, fun l' hl' => ?_, fun p hp => ?_, fun hnd i w hw => ?_⟩⟩
  · exact LockUnit.settle_of_flight u l hg
  · exact LockUnit.settle_of_no_waiters u l hg hq
  · rw [LockUnit.settle_of_waiters u l hg (by simp [hq]), LockUnit.grantHead_exclusive_of_empty hh hq hm]
  · rw [LockUnit.settle_of_waiters u l hg (by simp [hq]), LockUnit.grantHead_shared u l hq hm]
  · exact LockUnit.grantRun_of_nil u l hnil
  · exact LockUnit.grantRun_lock u l hrun
  · exact LockUnit.grantRun_answers u l
  · exact (LockUnit.grantRun_onlyGrants u l).1 l' hl'
  · exact LockUnit.grantWaiters_keepsPort l p (u.lock l).run (u.setLock l { u.lock l with waiters := (u.lock l).behindRun }) hp
  · exact LockUnit.grantRun_port u l hnd i w hw

end

section
/-! The lock commands of the supervisor by the state of the lock (R4, R5, R160, R180), and the fields of the words and of the byte
layouts (R19, R25, R118). -/

namespace Sys2Proof.Machine

/-! ### Lock commands -/

/-- A level in range is read as the level of the parameters (R180). -/
theorem lockParamsOf_eq_some {level : Byte} {lease : BitVec 16} {lp op : Byte} (h1 : 1 ≤ level.toNat) (h15 : level.toNat ≤ 15)
    (hlp : lp.toNat ≤ 1) (hop : op.toNat ≤ 1) : ∃ q : LockParams, lockParamsOf level lease lp op = some q ∧
      q.level.toNat = level.toNat ∧ q.lease = lease ∧ q.leasePolicy.code = lp.toNat ∧ q.orphanPolicy.code = op.toNat := by
  obtain ⟨a, ha⟩ : ∃ a : LeasePolicy, a.code = lp.toNat := by
    rcases Nat.le_one_iff_eq_zero_or_eq_one.1 hlp with h | h
    · exact ⟨.report, h.symm⟩
    · exact ⟨.revoke, h.symm⟩
  obtain ⟨b, hb⟩ : ∃ b : OrphanPolicy, b.code = op.toNat := by
    rcases Nat.le_one_iff_eq_zero_or_eq_one.1 hop with h | h
    · exact ⟨.release, h.symm⟩
    · exact ⟨.breakLock, h.symm⟩
  have hlevel : ¬(level = 0 ∨ 15 < level.toNat) := by
    rintro (rfl | h)
    · simp at h1
    · omega
  refine ⟨⟨level.setWidth 4, lease, a, b⟩, ?_, ?_, rfl, ha, hb⟩
  · rw [lockParamsOf, if_neg hlevel, leasePolicyOf_eq_some.2 ha, orphanPolicyOf_eq_some.2 hb]
  · rw [BitVec.toNat_setWidth]
    omega

/-- A level or a policy out of range is refused (R180). -/
theorem lockParamsOf_eq_none {level : Byte} {lease : BitVec 16} {lp op : Byte}
    (h : level.toNat = 0 ∨ 15 < level.toNat ∨ 1 < lp.toNat ∨ 1 < op.toNat) : lockParamsOf level lease lp op = none := by
  rw [lockParamsOf]
  split
  · rfl
  · rename_i hlevel
    split
    · rename_i a b ha hb
      rw [leasePolicyOf_eq_some] at ha
      rw [orphanPolicyOf_eq_some] at hb
      have ha' : a.code ≤ 1 := by cases a <;> simp [LeasePolicy.code]
      have hb' : b.code ≤ 1 := by cases b <;> simp [OrphanPolicy.code]
      rw [not_or] at hlevel
      obtain ⟨h0, h15⟩ := hlevel
      have h0' : level.toNat ≠ 0 := fun e => h0 (BitVec.eq_of_toNat_eq e)
      omega
    · rfl

/-- Some ENABLED GUARD window names the lock (R5 check 2). -/
theorem State.guardedByWindow_iff (s : State) (l : LockId) : s.guardedByWindow l = true ↔
    ∃ w d wp rp, s.window w = .enabled d ∧ d.kind = .guard l wp rp := by
  rw [State.guardedByWindow, List.any_eq_true]
  constructor
  · rintro ⟨w, -, hw⟩
    split at hw
    · rename_i d hd
      split at hw
      · rename_i g wp rp hk
        obtain rfl : g = l := by simpa using hw
        exact ⟨w, d, wp, rp, hd, hk⟩
      · cases hw
      · cases hw
    · cases hw
    · cases hw
  · rintro ⟨w, d, wp, rp, hd, hk⟩
    refine ⟨w, List.mem_finRange w, ?_⟩
    rw [hd]
    dsimp only
    rw [hk]
    simp

section
variable {lock level : Byte} {lease : BitVec 16} {lp op : Byte} {s : State} {l : LockId} {q : LockParams}

/-- DEFINE_LOCK with a number, a level or a policy out of range (R180). -/
theorem execDefineLock_badParam (hr : s.ready) (h : lockOf lock = none ∨ lockParamsOf level lease lp op = none) :
    execDefineLock lock level lease lp op s = .next (s.answered .badParam []) := by
  rw [execDefineLock, s.command_of_ready _ hr]
  rcases h with h | h
  · rw [h]; rfl
  · rw [h]; cases lockOf lock <;> rfl

/-- DEFINE_LOCK at an UNDEFINED lock (R4). -/
theorem execDefineLock_undefined (hr : s.ready) (hl : lockOf lock = some l) (hq : lockParamsOf level lease lp op = some q)
    (hs : (s.lockUnit.lock l).state = .undefined) : execDefineLock lock level lease lp op s = .next
      ((s.setUnit (s.lockUnit.setLock l { LockRecord.powerOn with state := .free, params := some q })).answered .done []) := by
  rw [execDefineLock, s.command_of_ready _ hr, hl, hq]
  dsimp only
  rw [State.acknowledge_lockUnit, hs]
  rfl

/-- DEFINE_LOCK at a FREE lock (R4). -/
theorem execDefineLock_free (hr : s.ready) (hl : lockOf lock = some l) (hq : lockParamsOf level lease lp op = some q)
    (hs : (s.lockUnit.lock l).state = .free) : execDefineLock lock level lease lp op s =
      .next ((s.setUnit (s.lockUnit.setLock l { s.lockUnit.lock l with params := some q })).answered .done []) := by
  rw [execDefineLock, s.command_of_ready _ hr, hl, hq]
  dsimp only
  rw [State.acknowledge_lockUnit, hs]
  rfl

/-- DEFINE_LOCK at a lock in use (R4). -/
theorem execDefineLock_notFree (hr : s.ready) (hl : lockOf lock = some l) (hq : lockParamsOf level lease lp op = some q)
    (hu : (s.lockUnit.lock l).state ≠ .undefined) (hf : (s.lockUnit.lock l).state ≠ .free) :
    execDefineLock lock level lease lp op s = .next (s.answered .notFree []) := by
  rw [execDefineLock, s.command_of_ready _ hr, hl, hq]
  dsimp only
  rw [State.acknowledge_lockUnit]
  cases hs : (s.lockUnit.lock l).state with
  | undefined => exact absurd hs hu
  | free => exact absurd hs hf
  | exclusive => rfl
  | shared => rfl
  | draining => rfl
  | broken => rfl

/-- UNDEFINE_LOCK: its checks in their order (R5). -/
theorem execUndefineLock_eq (hr : s.ready) (hl : lockOf lock = some l) : execUndefineLock lock s = .next (
    if (s.lockUnit.lock l).removable = false then s.answered .notFree []
    else if s.guardedByWindow l then s.answered .inUse []
    else if s.lockUnit.inSomeList l then s.answered .inUse []
    else (s.setUnit (s.lockUnit.setLock l LockRecord.powerOn)).answered .done []) := by
  rw [execUndefineLock, s.command_of_ready _ hr, hl]
  rfl

/-- REPAIR_LOCK: its checks in their order (R160). -/
theorem execRepairLock_eq (hr : s.ready) (hl : lockOf lock = some l) : execRepairLock lock s = .next (
    if (s.lockUnit.lock l).state ≠ .broken then s.answered .notBroken []
    else if (s.lockUnit.lock l).guardFlight ≠ 0 then s.answered .draining []
    else (s.setUnit (s.lockUnit.setLock l { (s.lockUnit.lock l).stopLease with state := .free })).answered .done []) := by
  rw [execRepairLock, s.command_of_ready _ hr, hl]
  rfl

end

/-! ### Words and bytes -/

/-- The two bytes of a field, put together again, are the field (R25). -/
theorem field16_bytes (x : BitVec 16) : field16 (x.extractLsb' 0 8) (x.extractLsb' 8 8) = x := by
  have h1 : x.extractLsb' 8 8 ++ x.extractLsb' 0 8 = x.extractLsb' 0 16 :=
    BitVec.extractLsb'_append_extractLsb'_eq_extractLsb' rfl
  rw [field16, h1, BitVec.extractLsb'_eq_self]

/-- The four bytes of a field, put together again, are the field (R25). -/
theorem field32_bytes (x : BitVec 32) :
    field32 (x.extractLsb' 0 8) (x.extractLsb' 8 8) (x.extractLsb' 16 8) (x.extractLsb' 24 8) = x := by
  have h1 : x.extractLsb' 24 8 ++ x.extractLsb' 16 8 = x.extractLsb' 16 16 :=
    BitVec.extractLsb'_append_extractLsb'_eq_extractLsb' rfl
  have h2 : x.extractLsb' 16 16 ++ x.extractLsb' 8 8 = x.extractLsb' 8 24 :=
    BitVec.extractLsb'_append_extractLsb'_eq_extractLsb' rfl
  have h3 : x.extractLsb' 8 24 ++ x.extractLsb' 0 8 = x.extractLsb' 0 32 :=
    BitVec.extractLsb'_append_extractLsb'_eq_extractLsb' rfl
  rw [field32, h1, h2, h3, BitVec.extractLsb'_eq_self]

section
variable (o : LockOutcome) (lock : Nat) (m : Mode) (g : BitVec 16) (taint : Bool)

/-! The fields of the result word (Table 1-7). -/

theorem resultWord_generation : (resultWord o lock m g taint).extractLsb' 0 16 = g := by
  simp (disch := decide) only [resultWord, BitVec.extractLsb'_append_eq_of_add_le, BitVec.extractLsb'_eq_self]

theorem resultWord_outcome : (resultWord o lock m g taint).extractLsb' 16 8 = o.code := by
  simp (disch := decide) only [resultWord, BitVec.extractLsb'_append_eq_of_le, BitVec.extractLsb'_append_eq_of_add_le,
    Nat.reduceSub, BitVec.extractLsb'_eq_self]

theorem resultWord_lock : (resultWord o lock m g taint).extractLsb' 24 6 = BitVec.ofNat 6 lock := by
  simp (disch := decide) only [resultWord, BitVec.extractLsb'_append_eq_of_le, BitVec.extractLsb'_append_eq_of_add_le,
    Nat.reduceSub, BitVec.extractLsb'_eq_self]

theorem resultWord_mode : (resultWord o lock m g taint).getLsbD 30 = true ↔ m = .shared := by
  simp only [resultWord, BitVec.getLsbD_append]
  cases m <;> simp [Mode.code]

theorem resultWord_taint : (resultWord o lock m g taint).getLsbD 31 = taint := by
  simp only [resultWord, BitVec.getLsbD_append]
  simp

end

section
variable (r : LockRecord) (relation : Nat)

/-! The fields of the inspect word (Table 1-8). -/

/-- The level as the inspect word carries it, 0 while UNDEFINED. -/
def LockRecord.levelField (r : LockRecord) : BitVec 4 := (r.params.map LockParams.level).getD 0

theorem LockRecord.levelField_toNat : r.levelField.toNat = r.level := by
  unfold LockRecord.levelField LockRecord.level
  cases r.params <;> rfl

theorem inspectWord_eq : inspectWord r relation = (r.levelField ++ BitVec.ofBool r.taint ++ BitVec.ofNat 2 relation ++
    BitVec.ofNat 3 r.waiters.length ++ BitVec.ofNat 3 r.holders.length ++ BitVec.ofNat 3 r.state.code ++ r.generation :
      BitVec (4 + 1 + 2 + 3 + 3 + 3 + 16)) := by
  unfold inspectWord LockRecord.levelField
  cases r.params <;> rfl

theorem inspectWord_generation : (inspectWord r relation).extractLsb' 0 16 = r.generation := by
  simp (disch := decide) only [inspectWord_eq, BitVec.extractLsb'_append_eq_of_add_le, BitVec.extractLsb'_eq_self]

theorem inspectWord_state : (inspectWord r relation).extractLsb' 16 3 = BitVec.ofNat 3 r.state.code := by
  simp (disch := decide) only [inspectWord_eq, BitVec.extractLsb'_append_eq_of_le, BitVec.extractLsb'_append_eq_of_add_le,
    Nat.reduceSub, BitVec.extractLsb'_eq_self]

theorem inspectWord_holders : (inspectWord r relation).extractLsb' 19 3 = BitVec.ofNat 3 r.holders.length := by
  simp (disch := decide) only [inspectWord_eq, BitVec.extractLsb'_append_eq_of_le, BitVec.extractLsb'_append_eq_of_add_le,
    Nat.reduceSub, BitVec.extractLsb'_eq_self]

theorem inspectWord_waiters : (inspectWord r relation).extractLsb' 22 3 = BitVec.ofNat 3 r.waiters.length := by
  simp (disch := decide) only [inspectWord_eq, BitVec.extractLsb'_append_eq_of_le, BitVec.extractLsb'_append_eq_of_add_le,
    Nat.reduceSub, BitVec.extractLsb'_eq_self]

theorem inspectWord_relation : (inspectWord r relation).extractLsb' 25 2 = BitVec.ofNat 2 relation := by
  simp (disch := decide) only [inspectWord_eq, BitVec.extractLsb'_append_eq_of_le, BitVec.extractLsb'_append_eq_of_add_le,
    Nat.reduceSub, BitVec.extractLsb'_eq_self]

theorem inspectWord_taint : (inspectWord r relation).getLsbD 27 = r.taint := by
  rw [inspectWord_eq]
  simp only [BitVec.getLsbD_append]
  simp

theorem inspectWord_level : ((inspectWord r relation).extractLsb' 28 4).toNat = r.level := by
  simp (disch := decide) only [inspectWord_eq, BitVec.extractLsb'_append_eq_of_le, Nat.reduceSub, BitVec.extractLsb'_eq_self,
    LockRecord.levelField_toNat]

end

theorem LockState.code_le (s : LockState) : s.code ≤ 5 := by
  cases s <;> decide

end Sys2Proof.Machine

open Sys2Proof Sys2Proof.Machine

/-- Settles O48. -/
theorem lockCommandsByState : Obligations.LockCommandsByState := by
  refine ⟨fun lock level lease lp op s hr => ⟨fun hbad => ?_, fun l hl h1 h15 hlp hop => ?_⟩,
    fun lock s hr => ⟨fun hbad => ?_, fun l hl => ?_⟩⟩
  · exact execDefineLock_badParam hr (hbad.imp lockOf_eq_none.2 lockParamsOf_eq_none)
  · obtain ⟨q, hq, hlevel, hlease, hpol, horp⟩ := lockParamsOf_eq_some (lease := lease) h1 h15 hlp hop
    have hlock := lockOf_eq_some.2 hl
    exact ⟨q, hlevel, hlease, hpol, horp, execDefineLock_undefined hr hlock hq, execDefineLock_free hr hlock hq,
      execDefineLock_notFree hr hlock hq⟩
  · have hnone := lockOf_eq_none.2 hbad
    refine ⟨?_, ?_⟩
    · show execUndefineLock lock s = _
      rw [execUndefineLock, s.command_of_ready _ hr, hnone]
      rfl
    · show execRepairLock lock s = _
      rw [execRepairLock, s.command_of_ready _ hr, hnone]
      rfl
  · have hlock := lockOf_eq_some.2 hl
    have hundef := execUndefineLock_eq hr hlock
    have hrepair := execRepairLock_eq hr hlock
    intro r removable guards listed
    have hrem : (s.lockUnit.lock l).removable = true ↔ removable := LockRecord.removable_iff _
    have hguards : s.guardedByWindow l = true ↔ guards := s.guardedByWindow_iff l
    have hlisted : s.lockUnit.inSomeList l = true ↔ listed := s.lockUnit.inSomeList_iff l
    refine ⟨fun h => hundef.trans ?_, fun h hin => hundef.trans ?_, fun h hg hli => hundef.trans ?_,
      fun h => hrepair.trans ?_, fun h hg => hrepair.trans ?_, fun h hg => hrepair.trans ?_⟩
    · rw [if_pos (by simpa [← hrem] using h)]
    · rw [if_neg (by simpa [← hrem] using h)]
      by_cases hg : guards
      · rw [if_pos (hguards.2 hg)]
      · rw [if_neg (hguards.not.2 hg), if_pos (hlisted.2 (hin.resolve_left hg))]
    · rw [if_neg (by simpa [← hrem] using h), if_neg (hguards.not.2 hg), if_neg (hlisted.not.2 hli)]
    · rw [if_pos h]
    · rw [if_neg (not_not_intro h), if_pos hg]
    · rw [if_neg (not_not_intro h), if_neg (not_not_intro hg)]
      rfl

/-- Settles O28. -/
theorem wordFields : Obligations.WordFields := by
  refine ⟨fun x => ⟨_, _, rfl, field16_bytes x⟩, fun x => ⟨_, _, _, _, rfl, field32_bytes x⟩, fun o lock m g taint _ => ?_,
    fun r relation hrel hholders hwaiters => ?_, by decide⟩
  · exact ⟨resultWord_generation o lock m g taint, resultWord_outcome o lock m g taint, resultWord_lock o lock m g taint,
      resultWord_mode o lock m g taint, resultWord_taint o lock m g taint⟩
  · have hstate := r.state.code_le
    refine ⟨inspectWord_generation r relation, ?_, ?_, ?_, ?_, inspectWord_taint r relation, inspectWord_level r relation⟩
    · rw [inspectWord_state, BitVec.toNat_ofNat, Nat.mod_eq_of_lt (by omega)]
    · rw [inspectWord_holders, BitVec.toNat_ofNat, Nat.mod_eq_of_lt (by omega)]
    · rw [inspectWord_waiters, BitVec.toNat_ofNat, Nat.mod_eq_of_lt (by omega)]
    · rw [inspectWord_relation, BitVec.toNat_ofNat, Nat.mod_eq_of_lt (by omega)]

end

section
/-! Waits and holdings that end without their port: a timeout (R39), the port-gone claim and the end of RESETTING (R153, R154). -/

namespace Sys2Proof.Machine

/-! ### Timeouts -/

/-- A record whose wait ran out leaves, answered and reported with the generation it found (R39). -/
theorem LockUnit.timeout_of_expired {u : LockUnit} {l : LockId} {p : PortId} {w : Waiter} (hw : u.waiterOf l p = some w)
    (he : w.expired = true) : u.timeout l p =
      { unit := (u.removeWaiter l p).1,
        answers := ⟨p, w.tag, u.wordFor l .timeout w.mode⟩ :: (u.removeWaiter l p).2,
        faults := [{ cls := .timeout, port := some p, tag := some w.tag, lock := some l,
                     generation := some (u.lock l).generation }] } := by
  rw [LockUnit.timeout, hw, Option.filter_some, if_pos he]

/-- Without such a record a timeout finds nothing (R43). -/
theorem LockUnit.timeout_of_none {u : LockUnit} {l : LockId} {p : PortId}
    (h : ∀ w, u.waiterOf l p = some w → w.expired = false) : u.timeout l p = { unit := u } := by
  have hnone : (u.waiterOf l p).filter Waiter.expired = none :=
    Option.filter_eq_none_iff.2 fun w hw => by simp [h w hw]
  rw [LockUnit.timeout, hnone]

/-- An event without an effect changes nothing. -/
theorem State.applyLock_unchanged (s : State) : s.applyLock { unit := s.lockUnit } = s := rfl

theorem exec_waitTimeout (l : LockId) (p : PortId) {s : State} (hlow : s.resetLow = false) :
    exec (.waitTimeout l p) s = .next (s.applyLock (s.lockUnit.timeout l p)) :=
  congrArg Host.Outcome.next (s.running_of_high _ hlow)

/-! ### The claim's port -/

/-- A removed record takes its port's wait with it; the run it may uncover is of other ports (R31, R36). -/
theorem LockUnit.removeWaiter_own (u : LockUnit) (l : LockId) (p : PortId) :
    (u.removeWaiter l p).1.held p = u.held p ∧ (u.removeWaiter l p).1.wait p = none := by
  have hgone : (u.unqueued l p).held p = u.held p ∧ (u.unqueued l p).wait p = none := by simp [LockUnit.unqueued]
  by_cases hh : u.headsShared l p
  · have hothers : ∀ w ∈ ((u.unqueued l p).lock l).waiters, w.port ≠ p := by simp [LockUnit.unqueued]
    obtain ⟨hheld, hwait⟩ := LockUnit.grantRun_keepsPort (u.unqueued l p) l p hothers
    rw [LockUnit.removeWaiter_of_head hh]
    exact ⟨hheld.trans hgone.1, hwait.trans hgone.2⟩
  · rw [LockUnit.removeWaiter_of_other hh]
    exact hgone

theorem LockUnit.dropWait_of_none {u : LockUnit} {p : PortId} (h : u.wait p = none) : u.dropWait p = (u, []) := by
  rw [LockUnit.dropWait, h]

theorem LockUnit.dropWait_of_wait {u : LockUnit} {p : PortId} {l : LockId} (h : u.wait p = some l) :
    u.dropWait p = u.removeWaiter l p := by
  rw [LockUnit.dropWait, h]

/-- Step 1 of the claim leaves the port its hold list and no wait (R154). -/
theorem LockUnit.dropWait_own (u : LockUnit) (p : PortId) :
    (u.dropWait p).1.held p = u.held p ∧ (u.dropWait p).1.wait p = none := by
  cases hw : u.wait p with
  | none => rw [LockUnit.dropWait_of_none hw]; exact ⟨rfl, hw⟩
  | some l => rw [LockUnit.dropWait_of_wait hw]; exact u.removeWaiter_own l p

/-! ### What the claim reaches -/

/-- From `u` to `v` only locks of `ls` may have changed, hold lists have only grown at their end, and waits have only been
cleared. Unlike `OnlyGrants` this lets taint be set and a lock break, and it speaks of several locks. -/
structure LockUnit.GrowsWithin (u : LockUnit) (ls : List LockId) (v : LockUnit) : Prop where
  locks : ∀ k, k ∉ ls → v.lock k = u.lock k
  held : ∀ q, ∃ es, v.held q = u.held q ++ es
  wait : ∀ q, v.wait q = u.wait q ∨ v.wait q = none

theorem LockUnit.GrowsWithin.refl (u : LockUnit) (ls : List LockId) : u.GrowsWithin ls u :=
  ⟨fun _ _ => rfl, fun _ => ⟨[], by simp⟩, fun _ => .inl rfl⟩

theorem LockUnit.GrowsWithin.trans {u v w : LockUnit} {ls ms : List LockId} (h : u.GrowsWithin ls v)
    (h' : v.GrowsWithin ms w) : u.GrowsWithin (ls ++ ms) w where
  locks k hk := by
    obtain ⟨hls, hms⟩ := not_or.1 (List.mem_append.not.1 hk)
    exact (h'.locks k hms).trans (h.locks k hls)
  held q := by
    obtain ⟨es, hes⟩ := h.held q
    obtain ⟨fs, hfs⟩ := h'.held q
    exact ⟨es ++ fs, by rw [hfs, hes, List.append_assoc]⟩
  wait q := (h'.wait q).elim (fun he => (h.wait q).imp he.trans he.trans) .inr

theorem LockUnit.OnlyGrants.growsWithin {u v : LockUnit} {l : LockId} (h : u.OnlyGrants l v) : u.GrowsWithin [l] v := by
  obtain ⟨hlocks, -, hheld, hwait⟩ := h
  exact ⟨fun k hk => hlocks k (by simpa using hk), fun q => (hheld q).imp fun _ he => he.1, hwait⟩

/-- The lock's record may first be written. -/
theorem LockUnit.GrowsWithin.afterSetLock {u v : LockUnit} {l : LockId} {r : LockRecord}
    (h : (u.setLock l r).GrowsWithin [l] v) : u.GrowsWithin [l] v where
  locks k hk := (h.locks k hk).trans (LockUnit.lock_setLock_ne u r (by simpa using hk))
  held := h.held
  wait := h.wait

/-- Waits that end touch no lock and no hold list. -/
theorem LockUnit.clearWaits_growsWithin (ls : List LockId) (ws : List Waiter) :
    ∀ u : LockUnit, u.GrowsWithin ls (ws.foldl (fun u w => u.setWait w.port none) u) := by
  induction ws with
  | nil => exact fun u => .refl u ls
  | cons w ws ih =>
    intro u
    refine ⟨(ih _).locks, (ih _).held, fun q => ((ih _).wait q).elim (fun he => ?_) .inr⟩
    rw [LockUnit.wait_setWait] at he
    split at he
    · exact .inr he
    · exact .inl he

theorem LockUnit.orphan_growsWithin (u : LockUnit) (l : LockId) : u.GrowsWithin [l] (u.orphan l).1 := by
  have hsettle : u.GrowsWithin [l] ((u.emptyHolders l true).settle l).1 :=
    (LockUnit.settle_onlyGrants (u.emptyHolders l true) l).growsWithin.afterSetLock
  rw [LockUnit.orphan]
  split
  · exact (LockUnit.clearWaits_growsWithin [l] _ _).afterSetLock.afterSetLock
  · exact hsettle
  · exact hsettle

/-- One hold entry of the claim reaches its own lock (R155, R156). -/
theorem LockUnit.claimEntry_growsWithin (u : LockUnit) (p : PortId) (e : HoldEntry) :
    u.GrowsWithin [e.lock] (u.claimEntry p e).unit := by
  rw [LockUnit.claimEntry]
  split
  · exact .refl u _
  · split
    · exact (LockUnit.leaveShared_onlyGrants u e.lock p).growsWithin
    · exact LockUnit.orphan_growsWithin u e.lock

/-- The entries of the claim reach their own locks (R154, step 2). -/
theorem LockUnit.claimEntries_growsWithin (p : PortId) (es : List HoldEntry) :
    ∀ u : LockUnit, u.GrowsWithin (es.map HoldEntry.lock) (u.claimEntries p es).unit := by
  induction es with
  | nil => exact fun u => .refl u _
  | cons e es ih => exact fun u => (LockUnit.claimEntry_growsWithin u p e).trans (ih _)

theorem LockUnit.dropWait_growsWithin (u : LockUnit) (p : PortId) :
    u.GrowsWithin (u.wait p).toList (u.dropWait p).1 := by
  cases hw : u.wait p with
  | none => rw [LockUnit.dropWait_of_none hw]; exact .refl u _
  | some l => rw [LockUnit.dropWait_of_wait hw]; exact (LockUnit.removeWaiter_onlyGrants u l p).growsWithin

/-- Before the port's list is emptied, the claim has reached the lock it waited for and the locks of its entries. -/
theorem LockUnit.claim_growsWithin (u : LockUnit) (p : PortId) :
    u.GrowsWithin ((u.wait p).toList ++ (u.held p).map HoldEntry.lock)
      ((u.dropWait p).1.claimEntries p (u.held p)).unit :=
  (u.dropWait_growsWithin p).trans (LockUnit.claimEntries_growsWithin p _ _)

theorem LockUnit.claim_eq (u : LockUnit) (p : PortId) : u.claim p =
    { unit := ((u.dropWait p).1.claimEntries p (u.held p)).unit.setHeld p [],
      answers := (u.dropWait p).2 ++ ((u.dropWait p).1.claimEntries p (u.held p)).answers,
      faults := ((u.dropWait p).1.claimEntries p (u.held p)).faults } := by
  rw [LockUnit.claim, (u.dropWait_own p).1]

/-- The port has neither entry nor wait after its claim (R154). -/
theorem LockUnit.claim_own (u : LockUnit) (p : PortId) :
    (u.claim p).unit.held p = [] ∧ (u.claim p).unit.wait p = none := by
  rw [LockUnit.claim_eq]
  have hwait := (LockUnit.claimEntries_growsWithin p (u.held p) (u.dropWait p).1).wait p
  exact ⟨LockUnit.held_setHeld_self _ p [], hwait.elim (·.trans (u.dropWait_own p).2) id⟩

/-- Locks that the port neither waited for nor had an entry for stand. -/
theorem LockUnit.claim_lock (u : LockUnit) (p : PortId) (l : LockId) (hw : u.wait p ≠ some l)
    (hh : ∀ e ∈ u.held p, e.lock ≠ l) : (u.claim p).unit.lock l = u.lock l := by
  rw [LockUnit.claim_eq]
  exact (u.claim_growsWithin p).locks l (by simpa using ⟨hw, hh⟩)

/-- Hold lists of other ports only grow. -/
theorem LockUnit.claim_held (u : LockUnit) {p q : PortId} (hq : q ≠ p) : ∃ es, (u.claim p).unit.held q = u.held q ++ es := by
  rw [LockUnit.claim_eq, LockUnit.held_setHeld_ne _ _ hq]
  exact (u.claim_growsWithin p).held q

/-! ### When the claim is taken -/

theorem LockOpKind.claimMayPass_iff (k : LockOpKind) :
    k.claimMayPass = true ↔ ¬(k ≠ .withdraw ∧ k ≠ .inspect ∧ k ≠ .misuse) := by
  cases k <;> decide

theorem PortRecord.claimReady_iff (r : PortRecord) : r.claimReady = true ↔
    r.claimDue = true ∧ ∀ op, r.handed = some op → op.kind.claimMayPass = true := by
  rw [PortRecord.claimReady, Bool.and_eq_true, Option.all_eq_true]

theorem exec_portGoneClaim (p : PortId) {s : State} (hlow : s.resetLow = false) :
    exec (.portGoneClaim p) s = .next (if (s.port p).claimReady then s.takeClaim p else s) :=
  congrArg Host.Outcome.next (s.running_of_high _ hlow)

/-! ### The end of RESETTING -/

theorem State.goOffline_of_inProgress {s : State} {p : PortId} (h : s.supervisor.command = .inProgress p) :
    s.goOffline p = (s.setPort p { s.port p with link := .offline }).finish .done [] := by
  rw [State.goOffline]
  exact if_pos h

theorem State.goOffline_of_other {s : State} {p : PortId} (h : s.supervisor.command ≠ .inProgress p) :
    s.goOffline p = s.setPort p { s.port p with link := .offline } := by
  rw [State.goOffline]
  exact if_neg h

end Sys2Proof.Machine

open Sys2Proof Sys2Proof.Machine

/-- Settles O33: a due timeout is the removal of its record, which a SHARED head completes with the run it uncovers. -/
theorem timeoutRemovesTheWaiter : Obligations.TimeoutRemovesTheWaiter := by
  intro l p s hlow u r
  refine ⟨?_, fun hnone => ?_⟩
  · intro w hw he word fault
    have heffect := LockUnit.timeout_of_expired hw he
    have hevent : ∀ e, u.timeout l p = e → LockEvent s (s.applyLock (u.timeout l p)) e := by
      rintro _ rfl
      exact (s.applyLock_spec _).1
    refine ⟨_, exec_waitTimeout l p hlow, (s.applyLock_spec _).2, fun hh => hevent _ ?_, fun hh => hevent _ ?_⟩
    · rw [heffect, LockUnit.removeWaiter_of_other hh]
      rfl
    · rw [heffect, LockUnit.removeWaiter_of_head hh]
      rfl
  · rw [exec_waitTimeout l p hlow, LockUnit.timeout_of_none hnone, s.applyLock_unchanged]

/-- Settles O39: the claim taken is step 1 followed by the hold entries, and reaches no lock but theirs and that of the wait. -/
theorem portGoneClaimAndResetting : Obligations.PortGoneClaimAndResetting := by
  refine ⟨?_, ?_⟩
  · intro p s hlow u comesFirst
    refine ⟨fun hnot => ?_, fun hdue hpass => ?_⟩
    · rw [exec_portGoneClaim p hlow, if_neg]
      intro hready
      obtain ⟨hdue, hpass⟩ := (PortRecord.claimReady_iff _).1 hready
      rcases hnot with hno | ⟨op, hop, hfirst⟩
      · exact Bool.false_ne_true (hno.symm.trans hdue)
      · exact op.kind.claimMayPass_iff.1 (hpass op hop) hfirst
    · have hready : (s.port p).claimReady = true :=
        (PortRecord.claimReady_iff _).2 ⟨hdue, fun op hop => op.kind.claimMayPass_iff.2 (hpass op hop)⟩
      obtain ⟨hevent, hsup⟩ := s.applyLock_spec (u.claim p)
      have hunit : (s.applyLock (u.claim p)).lockUnit = (u.claim p).unit := s.applyLock_lockUnit _
      obtain ⟨hheld, hwait⟩ := u.claim_own p
      refine ⟨(u.dropWait p).1, (u.dropWait p).2, s.applyLock (u.claim p), fun hw => ?_, fun l hw hh => ?_,
        fun l hw hh => ?_, hevent, by rw [hunit, hheld], by rw [hunit, hwait], fun l hw hh => ?_, fun q hq => ?_, hsup, ?_⟩
      · rw [LockUnit.dropWait_of_none hw]
        exact ⟨rfl, rfl⟩
      · rw [LockUnit.dropWait_of_wait hw, LockUnit.removeWaiter_of_other hh]
        exact ⟨rfl, rfl⟩
      · rw [LockUnit.dropWait_of_wait hw, LockUnit.removeWaiter_of_head hh]
      · rw [hunit, u.claim_lock p l hw hh]
      · rw [hunit]
        exact u.claim_held hq
      · rw [exec_portGoneClaim p hlow, if_pos hready]
        rfl
  · intro p s ended
    refine ⟨fun h hc => ?_, fun h hc => ?_, fun h => ?_⟩
    · rw [State.endReset, if_pos h, State.goOffline_of_inProgress hc]
      rfl
    · rw [State.endReset, if_pos h, State.goOffline_of_other hc]
    · rw [State.endReset, if_neg h]

end

section
/-! Snapshots of the supervisor port: the bytes and lengths of both (R183, R184) and the buffer that latches one (R182, R64). -/

namespace Sys2Proof.Machine

/-! ### Bytes made of bit fields -/

/-- A flag put above the bits of a number is the flag's weight added to it. -/
theorem byteOf_or_bitAt {n k : Nat} (h : n < 2 ^ k) (b : Bool) : byteOf n ||| bitAt k b = byteOf (n + 2 ^ k * b.toNat) := by
  cases b with
  | false => simp [bitAt]
  | true =>
    have hor : 2 ^ k ||| n = 2 ^ k + n := by
      simpa using (Nat.two_pow_add_eq_or_of_lt h 1).symm
    have htwo : BitVec.twoPow 8 k = byteOf (2 ^ k) := BitVec.eq_of_toNat_eq (by simp [byteOf])
    calc byteOf n ||| bitAt k true = byteOf (2 ^ k ||| n) := by
          rw [bitAt, if_pos rfl, htwo, Nat.or_comm, byteOf, byteOf, byteOf, BitVec.ofNat_or]
      _ = byteOf (n + 2 ^ k * true.toNat) := by rw [hor, Nat.add_comm, Bool.toNat_true, Nat.mul_one]

/-- A mode above a number of at most seven bits (R183, R184). -/
theorem byteOf_or_modeBit7 {n : Nat} (h : n < 128) (m : Mode) : byteOf n ||| modeBit7 m = byteOf (n + 128 * m.code) := by
  rw [modeBit7, byteOf_or_bitAt h]
  cases m <;> rfl

/-- A port number with its mode (R183). -/
theorem byteOf_port_or_modeBit7 (p : PortId) (m : Mode) : byteOf p.val ||| modeBit7 m = byteOf (p.val + 128 * m.code) :=
  byteOf_or_modeBit7 (by omega) m

/-- A tag with its mode (R183, R184). -/
theorem byteOf_tag_or_modeBit7 (t : Tag) (m : Mode) : byteOf t.val ||| modeBit7 m = byteOf (t.val + 128 * m.code) :=
  byteOf_or_modeBit7 (by omega) m

@[simp] theorem length_bytes16 (x : BitVec 16) : (bytes16 x).length = 2 := rfl

/-! ### A lock's snapshot -/

/-- The policies' bits in byte 2 of a lock's snapshot, 0 while UNDEFINED (R183). -/
def LockRecord.policyBits (r : LockRecord) : Nat :=
  match r.params with
  | some q => 8 * q.leasePolicy.code + 16 * q.orphanPolicy.code
  | none => 0

/-- Each policy bit is that of its flag. -/
theorem LockRecord.policyBits_eq (r : LockRecord) : r.policyBits =
    8 * (r.params.any (fun q => q.leasePolicy == .revoke)).toNat +
      16 * (r.params.any (fun q => q.orphanPolicy == .breakLock)).toNat := by
  unfold LockRecord.policyBits
  cases r.params with
  | none => rfl
  | some q =>
    obtain ⟨level, lease, leasePolicy, orphanPolicy⟩ := q
    cases leasePolicy <;> cases orphanPolicy <;> rfl

/-- Byte 2 of a lock's snapshot: the state in its low three bits, then five flags (R183). -/
theorem LockRecord.snapshotByte_eq (r : LockRecord) :
    byteOf r.state.code ||| bitAt 3 (r.params.any (fun q => q.leasePolicy == .revoke)) |||
      bitAt 4 (r.params.any (fun q => q.orphanPolicy == .breakLock)) ||| bitAt 5 r.taint ||| bitAt 6 r.leaseRunning |||
      bitAt 7 r.leaseReported =
    byteOf (r.state.code + r.policyBits + 32 * r.taint.toNat + 64 * r.leaseRunning.toNat + 128 * r.leaseReported.toNat) := by
  have hstate := r.state.code_le
  have hlease := Bool.toNat_le (r.params.any (fun q => q.leasePolicy == .revoke))
  have horphan := Bool.toNat_le (r.params.any (fun q => q.orphanPolicy == .breakLock))
  have htaint := r.taint.toNat_le
  have hrunning := r.leaseRunning.toNat_le
  rw [r.policyBits_eq, byteOf_or_bitAt (by omega), byteOf_or_bitAt (by omega), byteOf_or_bitAt (by omega),
    byteOf_or_bitAt (by omega), byteOf_or_bitAt (by omega)]
  congr 1
  omega

/-- The level's byte (R183). -/
theorem LockRecord.levelByte_eq (r : LockRecord) : r.levelField.setWidth 8 = byteOf r.level := by
  rw [← r.levelField_toNat]
  exact BitVec.eq_of_toNat_eq (by simp [byteOf])

/-- A lock's snapshot, its header in the fields of the record (R183). -/
theorem lockSnapshotBytes_eq (l : LockId) (r : LockRecord) : lockSnapshotBytes l r =
    [ 0x01, byteOf l.val,
      byteOf (r.state.code + r.policyBits + 32 * r.taint.toNat + 64 * r.leaseRunning.toNat + 128 * r.leaseReported.toNat),
      byteOf r.level ] ++
    bytes16 r.lease ++ bytes16 r.leaseRemaining ++ bytes16 r.generation ++
    [byteOf r.guardFlight, byteOf r.holders.length, byteOf r.waiters.length, 0] ++
    (List.finRange 6).flatMap (holderByte r.holders) ++ r.waiters.flatMap Waiter.bytes := by
  rw [← r.snapshotByte_eq, ← r.levelByte_eq, LockRecord.levelField, LockRecord.lease, lockSnapshotBytes]
  cases r.params <;> rfl

/-- A port's part of the holder bytes is one byte when it holds, and none otherwise. -/
theorem length_holderByte (hs : List Holder) (p : PortId) :
    (holderByte hs p).length = if p ∈ hs.map Holder.port then 1 else 0 := by
  unfold holderByte
  split
  · rename_i h hfind
    have hport : h.port = p := by simpa using List.find?_some hfind
    rw [if_pos (List.mem_map.2 ⟨h, List.mem_of_find?_eq_some hfind, hport⟩)]
    rfl
  · rename_i hfind
    rw [if_neg]
    · rfl
    · intro hmem
      obtain ⟨h, hin, hport⟩ := List.mem_map.1 hmem
      exact List.find?_eq_none.1 hfind h hin (beq_iff_eq.2 hport)

/-- The holder bytes of some ports are as many as those of the ports that hold. -/
theorem length_flatMap_holderByte_eq_countP (hs : List Holder) (ps : List PortId) :
    (ps.flatMap (holderByte hs)).length = ps.countP (· ∈ hs.map Holder.port) := by
  induction ps with
  | nil => rfl
  | cons p ps ih =>
    rw [List.flatMap_cons, List.length_append, ih, length_holderByte, List.countP_cons, Nat.add_comm]
    simp only [decide_eq_true_eq]

/-- Holders of distinct ports have a byte each: the ports that hold, in rising order, are the holders' ports. -/
theorem length_flatMap_holderByte {hs : List Holder} (hnodup : (hs.map Holder.port).Nodup) :
    ((List.finRange 6).flatMap (holderByte hs)).length = hs.length := by
  have hperm : ((List.finRange 6).filter (· ∈ hs.map Holder.port)).Perm (hs.map Holder.port) :=
    (List.perm_ext_iff_of_nodup ((List.nodup_finRange 6).filter _) hnodup).2 (by simp)
  rw [length_flatMap_holderByte_eq_countP, List.countP_eq_length_filter, hperm.length_eq, List.length_map]

/-- The length of a lock's snapshot, 14 + h + 4w (R183). -/
theorem length_lockSnapshotBytes (l : LockId) {r : LockRecord} (hnodup : (r.holders.map Holder.port).Nodup) :
    (lockSnapshotBytes l r).length = 14 + r.holders.length + 4 * r.waiters.length := by
  have hwaiters : (r.waiters.flatMap Waiter.bytes).length = 4 * r.waiters.length := by
    simp [List.length_flatMap, Waiter.bytes, Nat.mul_comm]
  simp only [lockSnapshotBytes, List.length_append, length_flatMap_holderByte hnodup, hwaiters, length_bytes16,
    List.length_cons, List.length_nil]

/-! ### A port's snapshot -/

/-- Byte 2 of a port's snapshot: the link state in its low two bits, then three flags (R184). -/
theorem PortView.snapshotByte_eq (v : PortView) :
    byteOf v.link.code ||| bitAt 2 v.enabled ||| bitAt 3 (v.cls == .back) ||| bitAt 4 v.atFence =
    byteOf (v.link.code + 4 * v.enabled.toNat + 8 * v.cls.code + 16 * v.atFence.toNat) := by
  have hlink : v.link.code ≤ 2 := by cases v.link <;> decide
  have henabled := v.enabled.toNat_le
  have hcls : (v.cls == .back).toNat = v.cls.code := by cases v.cls <;> rfl
  have hcode : v.cls.code ≤ 1 := hcls ▸ Bool.toNat_le _
  rw [byteOf_or_bitAt (by omega), byteOf_or_bitAt (by omega), hcls, byteOf_or_bitAt (by omega)]
  rfl

/-- The flags of a hold entry (R184). -/
theorem HoldEntry.flagByte_eq (e : HoldEntry) : bitAt 0 (e.mode == .shared) ||| bitAt 1 e.revoked ||| bitAt 2 e.loss =
    byteOf (e.mode.code + 2 * e.revoked.toNat + 4 * e.loss.toNat) := by
  have hmode : bitAt 0 (e.mode == .shared) = byteOf e.mode.code := by cases e.mode <;> rfl
  have hcode : e.mode.code ≤ 1 := by cases e.mode <;> decide
  have hrevoked := e.revoked.toNat_le
  rw [hmode, byteOf_or_bitAt (by omega), byteOf_or_bitAt (by omega)]
  rfl

/-- The length of a port's snapshot, 16 + 4e (R184). -/
theorem length_portSnapshotBytes (p : PortId) (v : PortView) : (portSnapshotBytes p v).length = 16 + 4 * v.holds.length := by
  have hholds : (v.holds.flatMap HoldEntry.bytes).length = 4 * v.holds.length := by
    simp [List.length_flatMap, HoldEntry.bytes, Nat.mul_comm]
  simp only [portSnapshotBytes, List.length_append, hholds, length_bytes16, List.length_cons, List.length_nil]

/-- A port waits at the release fence exactly when its head is a RELEASE held there (R137). -/
theorem PortRecord.atFence_iff (r : PortRecord) : r.atFence = true ↔ ∃ op, r.headClass = some (.heldRelease op) := by
  unfold PortRecord.atFence
  cases r.headClass with
  | none => simp
  | some c => cases c <;> simp

/-- A port without a pending wait shows none (R64). -/
theorem LockUnit.waitView_of_none {u : LockUnit} {p : PortId} (h : u.wait p = none) : u.waitView p = none := by
  rw [LockUnit.waitView, h]

/-- A pending wait is shown with the mode and the tag of its record (R64). -/
theorem LockUnit.waitView_of_wait {u : LockUnit} {p : PortId} {l : LockId} {w : Waiter} (h : u.wait p = some l)
    (hw : u.waiterOf l p = some w) : u.waitView p = some { lock := l, mode := w.mode, tag := w.tag } := by
  simp only [LockUnit.waitView, h, hw, Option.map_some]

/-! ### The snapshot buffer -/

section
variable {s : State} {n : Byte}

/-- The state with its snapshot buffer filled or emptied. -/
def State.setSnapshot (s : State) (x : Option Snapshot) : State :=
  { s with supervisor := { s.supervisor with snapshot := x } }

/-- A latched buffer is kept (R182). -/
theorem State.latch_of_latched (h : s.supervisor.snapshot ≠ none) (x : Snapshot) :
    (s.acknowledge true).latch x = s.answered .stillLatched [] := by
  obtain ⟨y, hy⟩ := Option.ne_none_iff_exists'.1 h
  have hack : (s.acknowledge true).supervisor.snapshot = some y := hy
  rw [State.latch, hack]
  rfl

/-- An empty buffer takes the snapshot (R182). -/
theorem State.latch_of_empty (h : s.supervisor.snapshot = none) (x : Snapshot) :
    (s.acknowledge true).latch x = (s.setSnapshot (some x)).answered .done [] := by
  have hack : (s.acknowledge true).supervisor.snapshot = none := h
  rw [State.latch, hack]
  rfl

theorem execSnapshotLock_badParam (hr : s.ready) (hn : lockOf n = none) :
    execSnapshotLock n s = .next (s.answered .badParam []) := by
  rw [execSnapshotLock, s.command_of_ready _ hr, hn]
  rfl

theorem execSnapshotLock_eq (hr : s.ready) {l : LockId} (hl : lockOf n = some l) :
    execSnapshotLock n s = .next ((s.acknowledge true).latch (.lock l (s.lockUnit.lock l))) := by
  rw [execSnapshotLock, s.command_of_ready _ hr, hl]
  rfl

theorem execSnapshotPort_badParam (hr : s.ready) (hn : portOf n = none) :
    execSnapshotPort n s = .next (s.answered .badParam []) := by
  rw [execSnapshotPort, s.command_of_ready _ hr, hn]
  rfl

theorem execSnapshotPort_eq (hr : s.ready) {p : PortId} (hp : portOf n = some p) :
    execSnapshotPort n s = .next ((s.acknowledge true).latch (.port p (s.portView p))) := by
  rw [execSnapshotPort, s.command_of_ready _ hr, hp]
  rfl

/-- READ_SNAPSHOT at an empty buffer (R182). -/
theorem execReadSnapshot_of_empty (hr : s.ready) (h : s.supervisor.snapshot = none) :
    execReadSnapshot s = .next (s.answered .empty []) := by
  have hack : (s.acknowledge true).supervisor.snapshot = none := h
  rw [execReadSnapshot, s.command_of_ready _ hr, hack]
  rfl

/-- READ_SNAPSHOT at a latched buffer (R182). -/
theorem execReadSnapshot_of_latched (hr : s.ready) {x : Snapshot} (h : s.supervisor.snapshot = some x) :
    execReadSnapshot s = .next ((s.setSnapshot none).answered .done x.bytes) := by
  have hack : (s.acknowledge true).supervisor.snapshot = some x := h
  rw [execReadSnapshot, s.command_of_ready _ hr, hack]
  rfl

end

end Sys2Proof.Machine

open Sys2Proof Sys2Proof.Machine

/-- Settles O50: the flags' bits are disjoint, so joining them is adding their weights; the buffer goes by its two cases. -/
theorem snapshotBuffer : Obligations.SnapshotBuffer := by
  refine ⟨fun l r => ?_, fun p v => ⟨?_, length_portSnapshotBytes p v⟩, fun n s hr => ?_⟩
  · intro shared level lease policies b
    refine ⟨?_, length_lockSnapshotBytes l⟩
    have hshared : ∀ m, 128 * m.code = shared m := fun m => by cases m <;> rfl
    have hholders : holderByte r.holders = fun p => match r.holders.find? (fun h => h.port == p) with
        | some h => [byteOf (p.val + shared h.mode)]
        | none => [] := by
      funext p
      rw [holderByte]
      cases r.holders.find? (fun h => h.port == p) with
      | none => rfl
      | some h =>
        show [byteOf p.val ||| modeBit7 h.mode] = _
        rw [byteOf_port_or_modeBit7, hshared]
    have hwaiters : Waiter.bytes =
        fun w => [byteOf w.port.val, byteOf (w.tag.val + shared w.mode)] ++ bytes16 w.remaining := by
      funext w
      rw [Waiter.bytes, byteOf_tag_or_modeBit7, hshared]
    show lockSnapshotBytes l r = _
    rw [lockSnapshotBytes_eq, hholders, hwaiters]
    rfl
  · have hholds : HoldEntry.bytes = fun e =>
        [byteOf e.lock.val, byteOf (e.mode.code + 2 * e.revoked.toNat + 4 * e.loss.toNat)] ++ bytes16 e.generation := by
      funext e
      rw [HoldEntry.bytes, e.flagByte_eq]
    show portSnapshotBytes p v = _
    rw [portSnapshotBytes, v.snapshotByte_eq, hholds]
    cases v.wait with
    | none => rfl
    | some w =>
      simp only [byteOf_tag_or_modeBit7]
      rfl
  · intro latched
    refine ⟨fun hn => execSnapshotLock_badParam hr (lockOf_eq_none.2 hn),
      fun hn => execSnapshotPort_badParam hr (portOf_eq_none.2 hn), fun l hl => ?_, fun p hp => ?_,
      execReadSnapshot_of_empty hr, fun x => execReadSnapshot_of_latched hr⟩
    · have hexec := execSnapshotLock_eq hr (lockOf_eq_some.2 hl)
      exact ⟨fun h => hexec.trans (congrArg _ (State.latch_of_latched h _)),
        fun h => hexec.trans (congrArg _ (State.latch_of_empty h _))⟩
    · have hexec := execSnapshotPort_eq hr (portOf_eq_some.2 hp)
      exact ⟨fun h => hexec.trans (congrArg _ (State.latch_of_latched h _)),
        fun h => ⟨s.portView p, hexec.trans (congrArg _ (State.latch_of_empty h _)), rfl, rfl, rfl, (s.port p).atFence_iff,
          rfl, rfl, rfl, rfl, rfl, rfl, rfl, LockUnit.waitView_of_none, fun l w => LockUnit.waitView_of_wait⟩⟩

end

section
/-! The lock clock, leases and revocation (R66 to R74, R78): the settings and the tick, one tick claim, a lease expiry by its
policy, and a revocation taken apart into what it does before the lock settles and the grant that follows. -/

namespace Sys2Proof.Machine

/-! ### Settings and the tick -/

/-- SET_CLOCK by the range of the period (R66, R178). -/
theorem execSetClock_eq (period : BitVec 16) {s : State} (hr : s.ready) : execSetClock period s = .next (
    if 1 ≤ period.toNat ∧ period.toNat ≤ 1000 then
      ({ s with clock := { s.clock with nextPeriod := period } } : State).answered .done []
    else s.answered .badParam []) := by
  rw [execSetClock, s.command_of_ready _ hr]
  rfl

/-- SET_WEIGHT by the range of the weight (R140, R178). -/
theorem execSetWeight_eq (k : Byte) {s : State} (hr : s.ready) : execSetWeight k s = .next (
    if 1 ≤ k.toNat ∧ k.toNat ≤ 8 then
      ({ s with arbiter := { s.arbiter with weight := k.toNat } } : State).answered .done []
    else s.answered .badParam []) := by
  rw [execSetWeight, s.command_of_ready _ hr]
  rfl

theorem exec_lockClockTick {s : State} (hlow : s.resetLow = false) :
    exec .lockClockTick s = .next { s with clock := s.clock.tick } :=
  congrArg Host.Outcome.next (s.running_of_high _ hlow)

/-! ### Tick claims and lease expiries -/

theorem LockRecord.leaseDue_iff (r : LockRecord) :
    r.leaseDue = true ↔ r.leaseRunning = true ∧ r.leaseRemaining = 0 := by
  simp [LockRecord.leaseDue]

/-- An expiry of an earlier claim is still to be taken at the record (R67). -/
theorem LockRecord.expiryDue_iff (r : LockRecord) : r.expiryDue = true ↔
    (r.leaseRunning = true ∧ r.leaseRemaining = 0) ∨ ∃ w ∈ r.waiters, w.expired = true := by
  rw [LockRecord.expiryDue, Bool.or_eq_true, r.leaseDue_iff, List.any_eq_true]

theorem exec_tickClaim (l : LockId) {s : State} (hlow : s.resetLow = false) : exec (.tickClaim l) s = .next (
    if s.clock.claims[l] = 0 ∨ (s.lockUnit.lock l).expiryDue = true then s else s.takeTickClaim l) :=
  congrArg Host.Outcome.next (s.running_of_high _ hlow)

theorem exec_leaseExpiry (l : LockId) {s : State} (hlow : s.resetLow = false) :
    exec (.leaseExpiry l) s = .next (s.applyLock (s.lockUnit.leaseExpiry l)) :=
  congrArg Host.Outcome.next (s.running_of_high _ hlow)

section
variable {u : LockUnit} {l : LockId} {q : LockParams}

/-- An expiry whose lease has stopped or begun again is discarded (R69). -/
theorem LockUnit.leaseExpiry_of_not_due (h : (u.lock l).leaseDue ≠ true) : u.leaseExpiry l = { unit := u } := by
  rw [LockUnit.leaseExpiry, if_neg h]

/-- A due expiry under REPORT (R70). -/
theorem LockUnit.leaseExpiry_of_report (h : (u.lock l).leaseDue = true) (hq : (u.lock l).params = some q)
    (hpolicy : q.leasePolicy = .report) : u.leaseExpiry l = u.reportLease l := by
  rw [LockUnit.leaseExpiry, if_pos h, hq, Option.map_some, hpolicy]

/-- A due expiry under REVOKE (R71). -/
theorem LockUnit.leaseExpiry_of_revoke (h : (u.lock l).leaseDue = true) (hq : (u.lock l).params = some q)
    (hpolicy : q.leasePolicy = .revoke) : u.leaseExpiry l = u.revoke l := by
  rw [LockUnit.leaseExpiry, if_pos h, hq, Option.map_some, hpolicy]

end

/-! ### Revocation -/

/-- The lock unit in a revocation before the lock settles: the holders' entries marked, the holder set empty and the lease
stopped (R72, steps 1 to 4). -/
def LockUnit.stripped (u : LockUnit) (l : LockId) : LockUnit :=
  (u.markRevoked l (u.lock l).holders).emptyHolders l (u.lock l).taint

theorem LockUnit.revoke_eq (u : LockUnit) (l : LockId) : u.revoke l =
    { unit := ((u.stripped l).settle l).1, answers := ((u.stripped l).settle l).2,
      faults := (u.lock l).holders.map (u.revokedFault l) } := rfl

theorem LockUnit.stripped_held (u : LockUnit) (l : LockId) (p : PortId) : (u.stripped l).held p =
    if (u.lock l).holders.any (fun h => h.port == p) then revokeEntries l (u.held p) else u.held p :=
  LockUnit.markRevoked_held l _ u p

theorem LockUnit.stripped_waits (u : LockUnit) (l : LockId) : (u.stripped l).waits = u.waits :=
  Vector.ext fun i hi => LockUnit.markRevoked_wait l _ u ⟨i, hi⟩

/-- Of all the records only that of the lock is written, and taint and generation stand (R72, R74). -/
theorem LockUnit.stripped_lock (u : LockUnit) (l k : LockId) : (u.stripped l).lock k =
    if k = l then { (u.lock l).stopLease with holders := [] } else u.lock k := by
  rw [LockUnit.stripped, LockUnit.emptyHolders, LockUnit.lock_setLock, LockUnit.markRevoked_lock, LockUnit.markRevoked_lock]
  rfl

/-- The answer to a command is read into the supervisor port only. -/
theorem State.finish_supervisor_congr {s t : State} (h : t.supervisor = s.supervisor) (status : Status) (data : List Byte) :
    (t.finish status data).supervisor = (s.finish status data).supervisor := by
  rw [State.finish, State.finish, h]

section
variable {lock : Byte} {s : State} {l : LockId}

theorem execForceRelease_badParam (hr : s.ready) (hl : lockOf lock = none) :
    execForceRelease lock s = .next (s.answered .badParam []) := by
  rw [execForceRelease, s.command_of_ready _ hr, hl]
  rfl

/-- FORCE_RELEASE at a lock without holders (R78). -/
theorem execForceRelease_noHolder (hr : s.ready) (hl : lockOf lock = some l) (he : (s.lockUnit.lock l).state ≠ .exclusive)
    (hs : (s.lockUnit.lock l).state ≠ .shared) : execForceRelease lock s = .next (s.answered .noHolder []) := by
  rw [execForceRelease, s.command_of_ready _ hr, hl]
  dsimp only
  rw [State.acknowledge_lockUnit]
  cases hstate : (s.lockUnit.lock l).state with
  | exclusive => exact absurd hstate he
  | shared => exact absurd hstate hs
  | undefined => rfl
  | free => rfl
  | draining => rfl
  | broken => rfl

/-- FORCE_RELEASE at a held lock (R78). -/
theorem execForceRelease_revokes (hr : s.ready) (hl : lockOf lock = some l)
    (h : (s.lockUnit.lock l).state = .exclusive ∨ (s.lockUnit.lock l).state = .shared) :
    execForceRelease lock s = .next ((s.acknowledge true).forceRevoke l) := by
  rw [execForceRelease, s.command_of_ready _ hr, hl]
  dsimp only
  rw [State.acknowledge_lockUnit]
  rcases h with h | h
  · rw [h]
  · rw [h]

end

end Sys2Proof.Machine

open Sys2Proof Sys2Proof.Machine

/-- Settles O29. -/
theorem clockAndWeightSettings : Obligations.ClockAndWeightSettings := by
  refine ⟨⟨fun period s hr => ⟨fun h1 h2 => ?_, fun h => ?_⟩, fun s hlow => exec_lockClockTick hlow⟩,
    fun k s hr => ⟨fun h1 h2 => ?_, fun h => ?_⟩⟩
  · exact (execSetClock_eq period hr).trans (by rw [if_pos ⟨h1, h2⟩])
  · exact (execSetClock_eq period hr).trans (by rw [if_neg (by omega)])
  · exact (execSetWeight_eq k hr).trans (by rw [if_pos ⟨h1, h2⟩])
  · exact (execSetWeight_eq k hr).trans (by rw [if_neg (by omega)])

/-- Settles O30: a claim waits exactly for the expiries that are due, and taken it lowers the record. -/
theorem tickClaimLowersCounters : Obligations.TickClaimLowersCounters := by
  intro l s hlow r blocked
  have hblocked : (s.clock.claims[l] = 0 ∨ r.expiryDue = true) ↔ blocked := or_congr_right r.expiryDue_iff
  refine ⟨fun h => ?_, fun h => ?_⟩
  · rw [exec_tickClaim l hlow, if_pos (hblocked.2 h)]
  · rw [exec_tickClaim l hlow, if_neg (hblocked.not.2 h)]
    rfl

/-- Settles O31: the lease policy is read only when the expiry is due. -/
theorem leaseExpiryByPolicy : Obligations.LeaseExpiryByPolicy := by
  intro l s hlow r due
  have hdue : r.leaseDue = true ↔ due := r.leaseDue_iff
  refine ⟨fun h => ?_, fun q h hq hpolicy => ?_, fun q h hq hpolicy => ?_⟩
  · rw [exec_leaseExpiry l hlow, LockUnit.leaseExpiry_of_not_due (hdue.not.2 h), s.applyLock_unchanged]
  · rw [exec_leaseExpiry l hlow, LockUnit.leaseExpiry_of_report (hdue.2 h) hq hpolicy]
    rfl
  · refine ⟨_, exec_leaseExpiry l hlow, ?_⟩
    rw [LockUnit.leaseExpiry_of_revoke (hdue.2 h) hq hpolicy]
    exact s.applyLock_spec _

/-- Settles O32: the lock unit before the lock settles is `LockUnit.stripped`. -/
theorem revocationAndForceRelease : Obligations.RevocationAndForceRelease := by
  refine ⟨fun u l => ⟨u.stripped l, u.stripped_held l, u.stripped_waits l, u.stripped_lock l, u.revoke_eq l⟩,
    fun lock s hr => ⟨fun h => execForceRelease_badParam hr (lockOf_eq_none.2 h), fun l hl => ?_⟩⟩
  refine ⟨fun he hs => ?_, fun h => ?_⟩
  · exact execForceRelease_noHolder hr (lockOf_eq_some.2 hl) he hs
  · obtain ⟨hevent, hsup⟩ := (s.acknowledge true).applyLock_spec (s.lockUnit.revoke l)
    refine ⟨_, execForceRelease_revokes hr (lockOf_eq_some.2 hl) h, hevent.of_acknowledge.finish _ _, ?_⟩
    rw [State.forceRevoke, State.finish_lockUnit, State.applyLock_lockUnit]
    exact State.finish_supervisor_congr hsup _ _

end

section
/-! Counted writes (R75, R77, R108, R110, R143, R147): the increment claim by what the port's entry says, and the completion of a
counted write by whether it ends DRAINING. -/

namespace Sys2Proof.Machine

/-! ### Issue of a write -/

/-- The port after the issue of a write, the head of its queue (R129). -/
theorem PortRecord.issued_of_write {r : PortRecord} {q : Request} {qs : List Request} (hq : r.queue = q :: qs)
    (hk : q.kind = .write) : r.issued q =
      { r with queue := qs, headClass := none, flight := r.flight + 1, writeFlight := r.writeFlight + 1 } := by
  rw [PortRecord.issued, hq, if_pos hk]
  rfl

/-- A write is answered OK when it is issued (R142). -/
theorem State.issueHead_of_write {s : State} {p : PortId} {q : Request} {qs : List Request}
    (hq : (s.port p).queue = q :: qs) (hk : q.kind = .write) (guard : Option LockId) : s.issueHead p q guard = State.advance
      { s.setPort p { s.port p with
          queue := qs, headClass := none, flight := (s.port p).flight + 1,
          writeFlight := (s.port p).writeFlight + 1 } with
        memPort := { s.memPort with table := s.memPort.table ++
          [{ port := p, tag := some q.tag, kind := .write, size := q.size, addr := q.addr, guard := guard }] }
        arbiter := { s.arbiter with slot := .sending ⟨.write, q.size, q.addr, q.data⟩ } }
      p [.response q.tag .ok []] := by
  rw [State.issueHead, PortRecord.issued_of_write hq hk, issueFrames, if_pos hk, hk]

/-- A dropped head leaves its queue and frees the slot (R143). -/
theorem State.dropHead_of_queue {s : State} {p : PortId} {q : Request} {qs : List Request}
    (hq : (s.port p).queue = q :: qs) : s.dropHead p q = State.advance
      { s.setPort p { s.port p with queue := qs, headClass := none } with arbiter := { s.arbiter with slot := .free } }
      p [.response q.tag .blocked []] := by
  rw [State.dropHead, hq]
  rfl

/-! ### The increment claim -/

theorem State.chosenHead_of_chosen {s : State} {p : PortId} {q : Request} {qs : List Request} {c : HeadClass}
    (hslot : s.arbiter.slot = .chosen p) (hq : (s.port p).queue = q :: qs) (hc : (s.port p).headClass = some c) :
    s.chosenHead = some (p, q, c) := by
  rw [State.chosenHead, hslot]
  dsimp only
  rw [hq, hc]
  rfl

section
variable {p : PortId} {q : Request} {l : LockId} {w : WindowId} {policy : WritePolicy} {s : State} {e : HoldEntry}

theorem exec_incrementClaim (hlow : s.resetLow = false) (h : s.chosenHead = some (p, q, .guardAuthorized l w policy)) :
    exec .incrementClaim s = .next (s.claimHead p q l w policy) := by
  refine congrArg Host.Outcome.next ((s.running_of_high _ hlow).trans ?_)
  rw [h]

/-- With the entry live and EXCLUSIVE the write is counted and issued under its guard lock (R75, R143). -/
theorem State.claimHead_of_live (he : s.lockUnit.entry p l = some e) (hr : e.revoked = false) (hm : e.mode = .exclusive) :
    s.claimHead p q l w policy = (s.setUnit (s.lockUnit.countGuarded l)).issueHead p q (some l) := by
  rw [State.claimHead, if_pos ((s.lockUnit.holdsExclusive_iff p l).2 ⟨e, he, hr, hm⟩)]

/-- A revoked entry no longer holds the lock. -/
theorem LockUnit.not_holdsExclusive_of_revoked {u : LockUnit} (he : u.entry p l = some e) (hr : e.revoked = true) :
    ¬u.holdsExclusive p l = true := by
  rw [LockUnit.holdsExclusive_iff]
  rintro ⟨e', he', hlive, -⟩
  obtain rfl : e = e' := Option.some.inj (he.symm.trans he')
  exact Bool.false_ne_true (hlive.symm.trans hr)

/-- With the entry revoked the write is reported, and PASS issues it uncounted (R143). -/
theorem State.claimHead_of_revoked_pass (he : s.lockUnit.entry p l = some e) (hr : e.revoked = true) :
    s.claimHead p q l w .pass =
      (s.report .lockUnit [guardFault .guardWrite p q.tag w q.addr l (s.lockUnit.lock l).generation]).issueHead p q none :=
  if_neg (LockUnit.not_holdsExclusive_of_revoked he hr)

/-- With the entry revoked the write is reported, and DROP sends nothing (R143). -/
theorem State.claimHead_of_revoked_drop (he : s.lockUnit.entry p l = some e) (hr : e.revoked = true) :
    s.claimHead p q l w .drop =
      (s.report .lockUnit [guardFault .guardWrite p q.tag w q.addr l (s.lockUnit.lock l).generation]).dropHead p q :=
  if_neg (LockUnit.not_holdsExclusive_of_revoked he hr)

end

/-! ### The completion of a counted write at its lock -/

/-- The lock unit with the counted write `e` of lock `l` gone: taint and loss mark when it failed, then the count (R77, R110). -/
def LockUnit.uncounted (u : LockUnit) (l : LockId) (e : FlightEntry) (failed : Bool) : LockUnit :=
  let v := if failed then u.failGuarded e.port l else u
  v.setLock l { v.lock l with guardFlight := (v.lock l).guardFlight - 1 }

theorem LockUnit.uncounted_lock (u : LockUnit) (l : LockId) (e : FlightEntry) (failed : Bool) :
    ((u.uncounted l e failed).lock l).state = (u.lock l).state ∧
      ((u.uncounted l e failed).lock l).guardFlight = (u.lock l).guardFlight - 1 := by
  cases failed <;> simp [LockUnit.uncounted, LockUnit.failGuarded, LockUnit.markLoss]

/-- A failed write taints its lock and marks the entry of its port (R110). -/
theorem LockUnit.uncounted_of_failed (u : LockUnit) (l : LockId) (e : FlightEntry) : u.uncounted l e true =
    (u.setLock l { u.lock l with guardFlight := (u.lock l).guardFlight - 1, taint := true }).setHeld e.port
      ((u.held e.port).map (fun h =>
        if h.lock = l ∧ h.revoked = false ∧ h.mode = .exclusive then { h with loss := true } else h)) := by
  simp [LockUnit.uncounted, LockUnit.failGuarded, LockUnit.markLoss, LockUnit.setHeld_setLock]

/-- The faults of the completion of a counted write (R110, step 3). -/
def LockUnit.writeFaults (u : LockUnit) (l : LockId) (e : FlightEntry) (failed : Bool) : List FaultInfo :=
  if failed then [{ cls := .memWrite, port := some e.port, tag := e.tag, lock := some l,
                    generation := some (u.lock l).generation, addr := some e.addr }]
  else []

/-- What the completion leaves at the lock is what DRAINING makes of it. -/
theorem LockUnit.completeGuarded_eq (u : LockUnit) (l : LockId) (e : FlightEntry) (failed : Bool) {out : LockUnit × List Answer}
    (h : (if ((u.uncounted l e failed).lock l).state = .draining ∧ ((u.uncounted l e failed).lock l).guardFlight = 0 then
        (u.uncounted l e failed).settle l
      else (u.uncounted l e failed, [])) = out) :
    u.completeGuarded l e failed = { unit := out.1, answers := out.2, faults := u.writeFaults l e failed } := by
  subst h
  rfl

/-- The last counted write of a DRAINING lock lets it settle (R77). -/
theorem LockUnit.completeGuarded_of_last {u : LockUnit} {l : LockId} (e : FlightEntry) (failed : Bool)
    (hs : (u.lock l).state = .draining) (hg : (u.lock l).guardFlight = 1) : u.completeGuarded l e failed =
      { unit := ((u.uncounted l e failed).settle l).1, answers := ((u.uncounted l e failed).settle l).2,
        faults := u.writeFaults l e failed } := by
  obtain ⟨hstate, hflight⟩ := u.uncounted_lock l e failed
  exact u.completeGuarded_eq l e failed (if_pos ⟨hstate.trans hs, by rw [hflight, hg]⟩)

/-- Any other completion of a counted write leaves the lock's state as it is (R77). -/
theorem LockUnit.completeGuarded_of_other {u : LockUnit} {l : LockId} (e : FlightEntry) (failed : Bool)
    (h : (u.lock l).state ≠ .draining ∨ 1 < (u.lock l).guardFlight) : u.completeGuarded l e failed =
      { unit := u.uncounted l e failed, faults := u.writeFaults l e failed } := by
  obtain ⟨hstate, hflight⟩ := u.uncounted_lock l e failed
  refine u.completeGuarded_eq l e failed (if_neg ?_)
  rw [hstate, hflight]
  rintro ⟨hd, h0⟩
  have hmany : 1 < (u.lock l).guardFlight := h.resolve_left (not_not_intro hd)
  omega

/-! ### The completion of a counted write at its port -/

/-- The fence opens when no write is left (R130). -/
theorem PortRecord.openFence_of_open {r : PortRecord} {op : LockOp} (hc : r.headClass = some (.heldRelease op))
    (hw : r.writeFlight = 0) : r.openFence = { r with queue := r.queue.tail, headClass := none, handed := some op } := by
  rw [PortRecord.openFence, hc]
  exact if_pos hw

/-- Without a release held there, or with a write left, the fence does nothing (R130). -/
theorem PortRecord.openFence_of_shut {r : PortRecord} (h : (∀ op, r.headClass ≠ some (.heldRelease op)) ∨ r.writeFlight ≠ 0) :
    r.openFence = r := by
  rw [PortRecord.openFence]
  split
  · rename_i op hc
    exact if_neg (h.resolve_left fun hn => hn op hc)
  · rfl
  · rfl
  · rfl
  · rfl

/-- The completion of a counted write is taken at its guard lock, then at its port (R147). -/
theorem exec_memCompletion_of_counted {e : FlightEntry} {rest : List FlightEntry} {l : LockId} {s : State}
    (hlow : s.resetLow = false) (ht : s.memPort.table = e :: rest) (hk : e.kind = .write) (hg : e.guard = some l)
    (result : MemResult) (data : List Byte) : exec (.memCompletion s.memPort.session result data) s =
      .next ((({ s with memPort := { s.memPort with table := rest } } : State).applyLock
        (s.lockUnit.completeGuarded l e (e.fails result data))).completeAtPort e) := by
  refine congrArg Host.Outcome.next ((s.running_of_high _ hlow).trans ?_)
  rw [if_pos rfl, ht]
  dsimp only
  rw [State.complete, hk]
  dsimp only
  rw [State.completeWrite, hg]

/-- A write fails when its completion says so (R145). -/
theorem FlightEntry.fails_of_write {e : FlightEntry} (hk : e.kind = .write) (result : MemResult) (data : List Byte) :
    e.fails result data = (result == .fail) := by
  cases result with
  | ok => rw [FlightEntry.fails, hk]; rfl
  | fail => rfl

end Sys2Proof.Machine

open Sys2Proof Sys2Proof.Machine

/-- Settles O36: the entry decides whether the write is counted, and for a revoked one the policy whether it is sent. -/
theorem incrementClaimDecides : Obligations.IncrementClaimDecides := by
  intro p q qs l w policy s hlow hslot hq hk hc r issued reported
  have hexec := exec_incrementClaim hlow (State.chosenHead_of_chosen hslot hq hc)
  refine ⟨fun e he hr hm => ?_, fun e he hr => ?_⟩
  · rw [hexec, State.claimHead_of_live he hr hm, State.issueHead_of_write (by rwa [State.setUnit_port]) hk]
    rfl
  · refine ⟨fun hpolicy => ?_, fun hpolicy => ?_⟩
    · rw [hexec, hpolicy, State.claimHead_of_revoked_pass he hr,
        State.issueHead_of_write (by rwa [State.report_port]) hk]
      rfl
    · rw [hexec, hpolicy, State.claimHead_of_revoked_drop he hr, State.dropHead_of_queue (by rwa [State.report_port])]
      rfl

/-- Settles O38: the event is the completion at the lock, and the port's record is its counts lowered with the fence tried. -/
theorem guardedWriteCompletion : Obligations.GuardedWriteCompletion := by
  intro e rest l result data s hlow ht hk hg u r counted faults taken
  have hfails := FlightEntry.fails_of_write hk result data
  have hcounted : u.uncounted l e (e.fails result data) = counted := by
    rw [hfails]
    cases result with
    | ok => rfl
    | fail => exact u.uncounted_of_failed l e
  have hfaults : u.writeFaults l e (e.fails result data) = faults := by
    rw [hfails]
    cases result <;> rfl
  have hexec := exec_memCompletion_of_counted hlow ht hk hg result data
  have hspec := taken.applyLock_spec (u.completeGuarded l e (e.fails result data))
  have hevent : ∀ x, u.completeGuarded l e (e.fails result data) = x →
      LockEvent taken (taken.applyLock (u.completeGuarded l e (e.fails result data))) x := by
    rintro _ rfl
    exact hspec.1
  refine ⟨_, _, hexec, fun hs h1 => hevent _ ?_, fun h => hevent _ ?_, hspec.2, fun op => PortRecord.openFence_of_open,
    PortRecord.openFence_of_shut⟩
  · rw [LockUnit.completeGuarded_of_last e _ hs h1, hcounted, hfaults]
  · rw [LockUnit.completeGuarded_of_other e _ h, hcounted, hfaults]

end

section
/-! The law of the window map (R86, R88, R92): which events leave the map and the locks in service alone, and what the window
commands and the removal of a lock do to the law. -/

namespace Sys2Proof.Machine

/-! ### Locks that stay defined -/

/-- From `u` to `v` no lock becomes UNDEFINED. -/
def LockUnit.StaysDefined (u v : LockUnit) : Prop :=
  ∀ l, (u.lock l).state ≠ .undefined → (v.lock l).state ≠ .undefined

theorem LockUnit.KeepsService.staysDefined {u v : LockUnit} (h : u.KeepsService v) : u.StaysDefined v := fun l => (h l).2

theorem LockUnit.StaysDefined.setLock (u : LockUnit) (l : LockId) (r : LockRecord)
    (h : (u.lock l).state ≠ .undefined → r.state ≠ .undefined) : u.StaysDefined (u.setLock l r) := by
  intro k hk
  rw [LockUnit.lock_setLock]
  split
  · subst k
    exact h hk
  · exact hk

/-- An operation taken at the lock unit (R13 to R24). -/
theorem State.slotEffect_keepsService (s : State) (p : PortId) (k : LockOpKind) (op : LockOp) :
    s.lockUnit.KeepsService (s.slotEffect p k op).unit := by
  cases k with
  | acquireExclusive => exact LockUnit.seek_keepsService _ p op _ _ _
  | acquireShared => exact LockUnit.seek_keepsService _ p op _ _ _
  | tryExclusive => exact LockUnit.seek_keepsService _ p op _ _ _
  | tryShared => exact LockUnit.seek_keepsService _ p op _ _ _
  | inspect => exact .of_locks fun _ => by rw [State.slotEffect, LockUnit.inspect_unit]
  | release => exact LockUnit.release_keepsService _ p op
  | releaseLatest => exact LockUnit.releaseLatest_keepsService _ p op
  | withdraw => exact LockUnit.withdraw_keepsService _ p op
  | misuse => exact .refl _

/-- A counted write moves a count only (R108). -/
theorem LockUnit.countGuarded_staysDefined (u : LockUnit) (l : LockId) : u.StaysDefined (u.countGuarded l) :=
  .setLock u l _ id

/-- The completion of a counted write (R77, R110). -/
theorem LockUnit.completeGuarded_staysDefined (u : LockUnit) (l : LockId) (e : FlightEntry) (failed : Bool) :
    u.StaysDefined (u.completeGuarded l e failed).unit := by
  have huncounted : u.StaysDefined (u.uncounted l e failed) := by
    cases failed with
    | false => exact .setLock u l _ id
    | true =>
      rw [LockUnit.uncounted_of_failed]
      exact .setLock u l _ id
  rw [u.completeGuarded_eq l e failed rfl]
  dsimp only
  split
  · exact fun k hk => (LockUnit.settle_keepsService _ l).staysDefined k (huncounted k hk)
  · exact huncounted

/-! ### What leaves the window map alone -/

/-- From `s` to `t` the window map is the same and no lock becomes UNDEFINED. -/
def State.KeepsMap (s t : State) : Prop := t.windows = s.windows ∧ s.lockUnit.StaysDefined t.lockUnit

theorem State.KeepsMap.of_same {s t : State} (hw : t.windows = s.windows) (hu : t.lockUnit = s.lockUnit) : s.KeepsMap t :=
  ⟨hw, fun _ h => hu ▸ h⟩

theorem State.KeepsMap.refl (s : State) : s.KeepsMap s := .of_same rfl rfl

theorem State.KeepsMap.trans {s t r : State} (h : s.KeepsMap t) (h' : t.KeepsMap r) : s.KeepsMap r :=
  ⟨h'.1.trans h.1, fun l hl => h'.2 l (h.2 l hl)⟩

theorem State.KeepsMap.window {s t : State} (h : s.KeepsMap t) (w : WindowId) : t.window w = s.window w := by
  rw [State.window, h.1, State.window]

theorem State.setUnit_keepsMap {s : State} {u : LockUnit} (h : s.lockUnit.StaysDefined u) : s.KeepsMap (s.setUnit u) :=
  ⟨rfl, h⟩

theorem State.report_keepsMap (s : State) (src : FaultSource) (fs : List FaultInfo) : s.KeepsMap (s.report src fs) :=
  .of_same (s.report_windows src fs) (s.report_lockUnit src fs)

theorem State.applyLock_keepsMap {s : State} {e : LockEffect} (h : s.lockUnit.StaysDefined e.unit) :
    s.KeepsMap (s.applyLock e) := by
  rw [State.applyLock_eq]
  exact ⟨rfl, h⟩

theorem State.advance_keepsMap (s : State) (p : PortId) (own : List Frame) : s.KeepsMap (s.advance p own) := by
  obtain ⟨fs, n, -, h⟩ := s.advance_writes p own
  rw [h]
  exact .of_same rfl rfl

theorem State.finishOp_keepsMap {s : State} {e : LockEffect} (p : PortId) (h : s.lockUnit.StaysDefined e.unit) :
    s.KeepsMap (s.finishOp p e) := by
  obtain ⟨hu, -, -, -, ⟨-, -, hw, -⟩, -⟩ := s.finishOp_spec p e
  exact ⟨hw, hu ▸ h⟩

theorem State.takeOp_keepsMap (s : State) (p : PortId) (k : LockOpKind) : s.KeepsMap (s.takeOp p k (s.slotEffect p k)) := by
  rw [State.takeOp]
  split
  · exact .refl s
  · split
    · exact State.finishOp_keepsMap p (s.slotEffect_keepsService p k _).staysDefined
    · exact .refl s

theorem State.portReset_keepsMap (s : State) (p : PortId) (close : Bool) : s.KeepsMap (s.portReset p close) :=
  .of_same rfl rfl

theorem State.linkLoss_keepsMap (s : State) (p : PortId) : s.KeepsMap (s.linkLoss p) :=
  (s.report_keepsMap _ _).trans (State.portReset_keepsMap _ p false)

theorem State.endReset_keepsMap (s : State) (p : PortId) : s.KeepsMap (s.endReset p) := by
  obtain ⟨l, sup, h, -⟩ := s.endReset_writes p
  rw [h]
  exact .of_same rfl rfl

theorem State.takeOpen_keepsMap (s : State) (p : PortId) : s.KeepsMap (s.takeOpen p) := by
  refine .of_same ?_ (s.takeOpen_lockUnit p)
  rw [State.takeOpen]
  dsimp only
  split
  · split <;> rfl
  · rfl
  · rfl

theorem State.takeClose_keepsMap (s : State) (p : PortId) : s.KeepsMap (s.takeClose p) := by
  rw [State.takeClose]
  split
  · exact .of_same rfl rfl
  · exact s.portReset_keepsMap p true
  · exact .refl s

theorem State.takeSilence_keepsMap (s : State) (p : PortId) : s.KeepsMap (s.takeSilence p) := by
  rw [State.takeSilence]
  split
  · exact s.linkLoss_keepsMap p
  · exact .refl s
  · exact .refl s

theorem State.takeBadFrame_keepsMap (s : State) (p : PortId) : s.KeepsMap (s.takeBadFrame p) := by
  rw [State.takeBadFrame]
  dsimp only
  split
  · exact .of_same rfl rfl
  · exact .refl s
  · split
    · exact .trans (.of_same rfl rfl) (State.linkLoss_keepsMap _ p)
    · exact .of_same rfl rfl

theorem State.takeRequest_keepsMap (s : State) (p : PortId) (kind : BitVec 4) (tag : Tag) (size : Byte) (addr : Word)
    (data : List Byte) : s.KeepsMap (s.takeRequest p kind tag size addr data) := by
  rw [State.takeRequest]
  split
  · exact .trans (.of_same rfl rfl) (State.report_keepsMap _ _ _)
  · exact .refl s
  · dsimp only
    split
    · exact .trans (.of_same rfl rfl) (State.report_keepsMap _ _ _)
    · exact .trans (.of_same rfl rfl) (State.advance_keepsMap _ p [])

theorem State.issueHead_keepsMap (s : State) (p : PortId) (q : Request) (guard : Option LockId) :
    s.KeepsMap (s.issueHead p q guard) := .trans (.of_same rfl rfl) (State.advance_keepsMap _ p _)

theorem State.dropHead_keepsMap (s : State) (p : PortId) (q : Request) : s.KeepsMap (s.dropHead p q) :=
  .trans (.of_same rfl rfl) (State.advance_keepsMap _ p _)

/-- An increment claim (R75, R143). -/
theorem State.claimHead_keepsMap (s : State) (p : PortId) (q : Request) (l : LockId) (w : WindowId) (policy : WritePolicy) :
    s.KeepsMap (s.claimHead p q l w policy) := by
  rw [State.claimHead]
  split
  · exact .trans (State.setUnit_keepsMap (s.lockUnit.countGuarded_staysDefined l)) (State.issueHead_keepsMap _ p q _)
  · dsimp only
    split
    · exact .trans (s.report_keepsMap _ _) (State.issueHead_keepsMap _ p q _)
    · exact .trans (s.report_keepsMap _ _) (State.dropHead_keepsMap _ p q)

theorem State.completeAtPort_keepsMap (s : State) (e : FlightEntry) : s.KeepsMap (s.completeAtPort e) :=
  .trans (.of_same rfl rfl) (State.endReset_keepsMap _ e.port)

theorem State.completeRead_keepsMap (s : State) (e : FlightEntry) (failed : Bool) (data : List Byte) :
    s.KeepsMap (s.completeRead e failed data) := by
  rw [State.completeRead]
  refine .trans ?_ (State.endReset_keepsMap _ e.port)
  refine .trans ?_ (State.report_keepsMap _ _ _)
  exact .of_same rfl rfl

theorem State.completeWrite_keepsMap (s : State) (e : FlightEntry) (failed : Bool) :
    s.KeepsMap (s.completeWrite e failed) := by
  rw [State.completeWrite]
  split
  · exact .trans (s.report_keepsMap _ _) (State.completeAtPort_keepsMap _ e)
  · exact .trans (State.applyLock_keepsMap (s.lockUnit.completeGuarded_staysDefined _ e failed))
      (State.completeAtPort_keepsMap _ e)

/-- A completion (R145). -/
theorem State.complete_keepsMap (s : State) (e : FlightEntry) (rest : List FlightEntry) (result : MemResult)
    (data : List Byte) : s.KeepsMap (s.complete e rest result data) := by
  rw [State.complete]
  dsimp only
  have htable : s.KeepsMap { s with memPort := { s.memPort with table := rest } } := .of_same rfl rfl
  split
  · exact htable.trans (State.completeRead_keepsMap _ e _ data)
  · exact htable.trans (State.completeWrite_keepsMap _ e _)

/-- The port-gone claim (R154). -/
theorem State.takeClaim_keepsMap (s : State) (p : PortId) : s.KeepsMap (s.takeClaim p) := by
  rw [State.takeClaim]
  exact .trans (.trans (State.applyLock_keepsMap (s.lockUnit.claim_keepsService p).staysDefined) (.of_same rfl rfl))
    (State.endReset_keepsMap _ p)

theorem State.setPortItems_keepsMap (s : State) (p : PortId) (enabled : Bool) (cls : PortClass) (limit : BitVec 16) :
    s.KeepsMap (s.setPortItems p enabled cls limit) := by
  rw [State.setPortItems]
  dsimp only
  split
  · exact .trans (.of_same rfl rfl) (State.portReset_keepsMap _ p true)
  · exact .of_same rfl rfl

theorem State.latch_keepsMap (s : State) (x : Snapshot) : s.KeepsMap (s.latch x) := by
  rw [State.latch]
  split <;> exact .of_same rfl rfl

/-! ### The law under single changes -/

/-- A map of UNDEFINED windows obeys the law (Table 9-2). -/
theorem State.WindowLaw.of_undefined {s : State} (h : ∀ w, s.window w = .undefined) : s.WindowLaw :=
  ⟨fun v w a b _ hv => by simp [h] at hv, fun w d l wp rp hw => by simp [h] at hw, fun w d hw => by simp [h] at hw⟩

theorem State.powerOnValues_windowLaw (s : State) (low : Bool) (straps : BitVec 3) (session : Nat) :
    (s.powerOnValues low straps session).WindowLaw :=
  .of_undefined fun w => show State.reset.window w = .undefined by simp [State.window, State.reset]

theorem State.KeepsMap.windowLaw {s t : State} (hk : s.KeepsMap t) (h : s.WindowLaw) : t.WindowLaw := by
  obtain ⟨hapart, hguard, hspace⟩ := h
  simp only [State.WindowLaw, hk.window]
  exact ⟨hapart, fun w d l wp rp hw hd => hk.2 l (hguard w d l wp rp hw hd), hspace⟩

/-- A window that becomes or stays DEFINED decodes nothing, so only its range matters (R86, R90, R94). -/
theorem State.WindowLaw.setDefined {s : State} (h : s.WindowLaw) (w : WindowId) {d : WindowDef} (hd : d.inSpace) :
    (s.setWindow w (.defined d)).WindowLaw := by
  obtain ⟨hapart, hguard, hspace⟩ := h
  have hkept : ∀ {v e}, (s.setWindow w (.defined d)).window v = .enabled e → s.window v = .enabled e := by
    intro v e hv
    rw [State.window_setWindow] at hv
    split at hv
    · cases hv
    · exact hv
  refine ⟨fun v x a b hvx hv hx => hapart v x a b hvx (hkept hv) (hkept hx),
    fun v e l wp rp hv => hguard v e l wp rp (hkept hv), fun v e hv => ?_⟩
  rw [State.window_setWindow] at hv
  split at hv
  · obtain rfl : d = e := by simpa using hv
    exact hd
  · exact hspace v e hv

/-- A window becomes ENABLED: its range is apart from those of the ENABLED windows and its guarding lock is defined (R91,
R92). -/
theorem State.WindowLaw.setEnabled {s : State} (h : s.WindowLaw) {w : WindowId} {d : WindowDef}
    (hw : s.window w = .defined d) (hg : ∀ l wp rp, d.kind = .guard l wp rp → (s.lockUnit.lock l).state ≠ .undefined)
    (ha : ∀ v e, v ≠ w → s.window v = .enabled e → d.base + d.pages ≤ e.base ∨ e.base + e.pages ≤ d.base) :
    (s.setWindow w (.enabled d)).WindowLaw := by
  obtain ⟨hapart, hguard, hspace⟩ := h
  have hcases : ∀ {v e}, (s.setWindow w (.enabled d)).window v = .enabled e →
      (v = w ∧ e = d) ∨ (v ≠ w ∧ s.window v = .enabled e) := by
    intro v e hv
    rw [State.window_setWindow] at hv
    split at hv
    · rename_i hvw
      exact .inl ⟨hvw, (WindowRecord.enabled.inj hv).symm⟩
    · rename_i hvw
      exact .inr ⟨hvw, hv⟩
  refine ⟨fun v x a b hvx hv hx => ?_, fun v e l wp rp hv hk => ?_, fun v e hv => ?_⟩
  · rcases hcases hv with ⟨rfl, rfl⟩ | ⟨hvw, hv'⟩
    · rcases hcases hx with ⟨rfl, -⟩ | ⟨hxw, hx'⟩
      · exact absurd rfl hvx
      · exact ha x b hxw hx'
    · rcases hcases hx with ⟨rfl, rfl⟩ | ⟨-, hx'⟩
      · exact (ha v a hvw hv').symm
      · exact hapart v x a b hvx hv' hx'
  · rcases hcases hv with ⟨-, rfl⟩ | ⟨-, hv⟩
    · exact hg l wp rp hk
    · exact hguard v e l wp rp hv hk
  · rw [State.window_setWindow] at hv
    split at hv
    · obtain rfl : d = e := by simpa using hv
      exact hspace w d (.inl hw)
    · exact hspace v e hv

/-- A lock that no ENABLED GUARD window names may become UNDEFINED (R5 check 2). -/
theorem State.WindowLaw.undefineLock {s : State} (h : s.WindowLaw) {l : LockId} (hno : s.guardedByWindow l = false) :
    (s.setUnit (s.lockUnit.setLock l LockRecord.powerOn)).WindowLaw := by
  obtain ⟨hapart, hguard, hspace⟩ := h
  refine ⟨hapart, fun w d k wp rp hw hk => ?_, hspace⟩
  have hkl : k ≠ l := by
    rintro rfl
    rw [(s.guardedByWindow_iff k).2 ⟨w, d, wp, rp, hw, hk⟩] at hno
    cases hno
  rw [State.setUnit_lockUnit, LockUnit.lock_setLock_ne _ _ hkl]
  exact hguard w d k wp rp hw hk

/-! ### The checks of the window commands -/

/-- The fields a DEFINE_WINDOW is read as (R89). -/
theorem windowDefOf_eq_some {base pages : BitVec 32} {kind lockRef wp rp : Byte} {d : WindowDef} :
    windowDefOf base pages kind lockRef wp rp = some d ↔
      d.inSpace ∧ d.base = base.toNat ∧ d.pages = pages.toNat ∧ windowKindOf kind lockRef wp rp = some d.kind := by
  unfold windowDefOf WindowDef.inSpace
  have hall : Config.addressPages = 1048576 := rfl
  rw [hall]
  obtain ⟨b, n, k⟩ := d
  split
  · rename_i hbad
    simp only [reduceCtorEq, false_iff]
    rintro ⟨⟨h1, h2⟩, rfl, rfl, -⟩
    omega
  · rename_i hgood
    simp only [Option.map_eq_some_iff, WindowDef.mk.injEq]
    constructor
    · rintro ⟨k', hk, rfl, rfl, rfl⟩
      exact ⟨⟨by omega, by omega⟩, rfl, rfl, hk⟩
    · rintro ⟨-, rfl, rfl, hk⟩
      exact ⟨k, hk, rfl, rfl, rfl⟩

/-- Window `v` is another ENABLED window that shares a page with range `d` (R91 check 4, R92). -/
def State.SharesPage (s : State) (w : WindowId) (d : WindowDef) (v : WindowId) : Prop :=
  v ≠ w ∧ ∃ e, s.window v = .enabled e ∧ d.base < e.base + e.pages ∧ e.base < d.base + d.pages

/-- The search for the lowest number finds it. -/
theorem find?_finRange_of_lowest {n : Nat} {f : Fin n → Bool} {P : Fin n → Prop} (hf : ∀ i, f i = true ↔ P i) {i : Fin n}
    (hi : P i) (hlow : ∀ j, j < i → ¬P j) : (List.finRange n).find? f = some i := by
  rw [← Fin.find?_eq_find?_finRange, Fin.find?_eq_some_iff]
  exact ⟨(hf i).2 hi, fun j hj => Bool.eq_false_iff.2 fun h => hlow j hj ((hf j).1 h)⟩

/-- The search for the lowest number finds none exactly when there is none. -/
theorem find?_finRange_eq_none {n : Nat} {f : Fin n → Bool} {P : Fin n → Prop} (hf : ∀ i, f i = true ↔ P i) :
    (List.finRange n).find? f = none ↔ ∀ i, ¬P i := by
  rw [← Fin.find?_eq_find?_finRange, Fin.find?_eq_none_iff]
  exact forall_congr' fun i => by rw [Bool.eq_false_iff, ne_eq, hf]

/-- The search of ENABLE_WINDOW is for the windows that share a page (R91 check 4). -/
theorem State.overlapping_eq (s : State) (w : WindowId) (d : WindowDef) :
    ∃ f : WindowId → Bool, (∀ v, f v = true ↔ s.SharesPage w d v) ∧ s.overlapping w d = (List.finRange 16).find? f := by
  refine ⟨_, fun v => ?_, rfl⟩
  unfold State.SharesPage
  rw [Bool.and_eq_true, bne_iff_ne]
  refine and_congr_right fun _ => ?_
  cases s.window v with
  | undefined => simp
  | defined e => simp
  | enabled e => simp [WindowDef.overlaps]

theorem State.overlapping_eq_some {s : State} {w v : WindowId} {d : WindowDef} (hv : s.SharesPage w d v)
    (hlow : ∀ x, x < v → ¬s.SharesPage w d x) : s.overlapping w d = some v := by
  obtain ⟨f, hf, heq⟩ := s.overlapping_eq w d
  rw [heq]
  exact find?_finRange_of_lowest hf hv hlow

theorem State.overlapping_eq_none {s : State} {w : WindowId} {d : WindowDef} :
    s.overlapping w d = none ↔ ∀ v, ¬s.SharesPage w d v := by
  obtain ⟨f, hf, heq⟩ := s.overlapping_eq w d
  rw [heq]
  exact find?_finRange_eq_none hf

/-- The window is a GUARD window whose guarding lock is UNDEFINED (R91 check 3). -/
theorem State.guardsUndefined_iff (s : State) (d : WindowDef) : s.guardsUndefined d = true ↔
    ∃ l wp rp, d.kind = .guard l wp rp ∧ (s.lockUnit.lock l).state = .undefined := by
  unfold State.guardsUndefined
  cases d.kind with
  | lock first => simp
  | guard l wp rp => simp
  | block => simp

/-! ### Every command -/

/-- An event that keeps the map keeps the law. -/
theorem windowLaw_of_running {s t : State} {k : State → State}
    (he : (.next (s.running k) : Host.Outcome State Fault Refusal) = .next t) (h : s.WindowLaw) (hk : s.KeepsMap (k s)) :
    t.WindowLaw := by
  obtain rfl := Host.Outcome.next.inj he
  rw [State.running]
  split
  · exact h
  · exact hk.windowLaw h

/-- A command keeps the law when its effect does. -/
theorem windowLaw_of_command {s t : State} {k : State → State}
    (he : (.next (s.command k) : Host.Outcome State Fault Refusal) = .next t) (h : s.WindowLaw)
    (hk : ∀ r : State, r.WindowLaw → (k r).WindowLaw) : t.WindowLaw := by
  obtain rfl := Host.Outcome.next.inj he
  rw [State.command]
  split
  · exact h
  · split
    · exact h
    · exact hk _ h
    · exact hk _ h

/-- DEFINE_WINDOW (R89, R90). -/
theorem execDefineWindow_windowLaw {window : Byte} {base pages : BitVec 32} {kind lockRef wp rp : Byte} {s t : State}
    (h : s.WindowLaw) (he : execDefineWindow window base pages kind lockRef wp rp s = .next t) : t.WindowLaw := by
  refine windowLaw_of_command he h fun r hr => ?_
  split
  · rename_i w d _ hd
    split
    · exact hr
    · obtain ⟨hspace, -⟩ := windowDefOf_eq_some.1 hd
      exact hr.setDefined w hspace
  · exact hr

/-- ENABLE_WINDOW (R91, R92). -/
theorem execEnableWindow_windowLaw {window : Byte} {s t : State} (h : s.WindowLaw)
    (he : execEnableWindow window s = .next t) : t.WindowLaw := by
  refine windowLaw_of_command he h fun r hr => ?_
  split
  · exact hr
  · rename_i w _
    split
    · exact hr
    · exact hr
    · rename_i d hw
      split
      · exact hr
      · rename_i hguard
        split
        · exact hr
        · rename_i hnone
          refine hr.setEnabled hw (fun l wp rp hk hu => hguard ((r.guardsUndefined_iff d).2 ⟨l, wp, rp, hk, hu⟩))
            fun v e hv hve => ?_
          have hshare := State.overlapping_eq_none.1 hnone v
          by_contra hnot
          rw [not_or] at hnot
          exact hshare ⟨hv, e, hve, by omega, by omega⟩

/-- DISABLE_WINDOW (R93, R94). -/
theorem execDisableWindow_windowLaw {window : Byte} {s t : State} (h : s.WindowLaw)
    (he : execDisableWindow window s = .next t) : t.WindowLaw := by
  refine windowLaw_of_command he h fun r hr => ?_
  split
  · exact hr
  · rename_i w _
    split
    · exact hr
    · exact hr
    · rename_i d hw
      have ⟨_, _, hspace⟩ := hr
      split
      · exact hr
      · exact hr.setDefined w (hspace w d (.inr hw))

/-- DEFINE_LOCK (R4) leaves locks defined. -/
theorem execDefineLock_windowLaw {lock level : Byte} {lease : BitVec 16} {lp op : Byte} {s t : State} (h : s.WindowLaw)
    (he : execDefineLock lock level lease lp op s = .next t) : t.WindowLaw := by
  refine windowLaw_of_command he h fun r hr => ?_
  split
  · rename_i l q _ _
    split
    · exact (State.setUnit_keepsMap (.setLock _ l _ fun _ => by simp)).windowLaw hr
    · exact (State.setUnit_keepsMap (.setLock _ l { r.lockUnit.lock l with params := some q } id)).windowLaw hr
    · exact hr
    · exact hr
    · exact hr
    · exact hr
  · exact hr

/-- UNDEFINE_LOCK (R5): the one command by which a lock leaves service. -/
theorem execUndefineLock_windowLaw {lock : Byte} {s t : State} (h : s.WindowLaw)
    (he : execUndefineLock lock s = .next t) : t.WindowLaw := by
  refine windowLaw_of_command he h fun r hr => ?_
  split
  · exact hr
  · split
    · exact hr
    · split
      · exact hr
      · rename_i hno
        split
        · exact hr
        · exact hr.undefineLock (by simpa using hno)

/-- FORCE_RELEASE (R78). -/
theorem execForceRelease_windowLaw {lock : Byte} {s t : State} (h : s.WindowLaw)
    (he : execForceRelease lock s = .next t) : t.WindowLaw := by
  have hrevoke : ∀ (r : State) l, r.WindowLaw → (r.forceRevoke l).WindowLaw := fun r l hr =>
    (State.applyLock_keepsMap (r.lockUnit.revoke_keepsService l).staysDefined).windowLaw hr
  refine windowLaw_of_command he h fun r hr => ?_
  split
  · exact hr
  · rename_i l _
    split
    · exact hrevoke r l hr
    · exact hrevoke r l hr
    · exact hr
    · exact hr
    · exact hr
    · exact hr

/-- REPAIR_LOCK (R160). -/
theorem execRepairLock_windowLaw {lock : Byte} {s t : State} (h : s.WindowLaw)
    (he : execRepairLock lock s = .next t) : t.WindowLaw := by
  refine windowLaw_of_command he h fun r hr => ?_
  split
  · exact hr
  · rename_i l _
    split
    · exact hr
    · split
      · exact hr
      · exact (State.setUnit_keepsMap (.setLock _ l _ fun _ => by simp)).windowLaw hr

/-- Every command keeps the law of the window map. -/
theorem exec_windowLaw {c : Instr} {s t : State} (h : s.WindowLaw) (he : exec c s = .next t) : t.WindowLaw := by
  cases c with
  | powerOn _ _ => obtain rfl := Host.Outcome.next.inj he; exact s.powerOnValues_windowLaw _ _ _
  | resetAssert _ => obtain rfl := Host.Outcome.next.inj he; exact s.powerOnValues_windowLaw _ _ _
  | resetRelease straps =>
    have he : execResetRelease straps s = .next t := he
    rw [execResetRelease] at he
    split at he
    · obtain rfl := Host.Outcome.next.inj he; exact s.powerOnValues_windowLaw _ _ _
    · obtain rfl := Host.Outcome.next.inj he; exact h
  | openFrame p => exact windowLaw_of_running he h (s.takeOpen_keepsMap p)
  | closeFrame p => exact windowLaw_of_running he h (s.takeClose_keepsMap p)
  | request p kind tag size addr data =>
    refine windowLaw_of_running he h ?_
    split
    · exact s.takeRequest_keepsMap p kind tag size addr data
    · exact s.takeBadFrame_keepsMap p
  | badFrame p => exact windowLaw_of_running he h (s.takeBadFrame_keepsMap p)
  | linkSilence p => exact windowLaw_of_running he h (s.takeSilence_keepsMap p)
  | frameSent p => exact windowLaw_of_running he h (.of_same rfl rfl)
  | acquireExclusive p => exact windowLaw_of_running he h (s.takeOp_keepsMap p .acquireExclusive)
  | acquireShared p => exact windowLaw_of_running he h (s.takeOp_keepsMap p .acquireShared)
  | tryExclusive p => exact windowLaw_of_running he h (s.takeOp_keepsMap p .tryExclusive)
  | tryShared p => exact windowLaw_of_running he h (s.takeOp_keepsMap p .tryShared)
  | inspect p => exact windowLaw_of_running he h (s.takeOp_keepsMap p .inspect)
  | release p => exact windowLaw_of_running he h (s.takeOp_keepsMap p .release)
  | releaseLatest p => exact windowLaw_of_running he h (s.takeOp_keepsMap p .releaseLatest)
  | withdraw p => exact windowLaw_of_running he h (s.takeOp_keepsMap p .withdraw)
  | misuseAccess p => exact windowLaw_of_running he h (s.takeOp_keepsMap p .misuse)
  | lockClockTick => exact windowLaw_of_running he h (.of_same rfl rfl)
  | tickClaim l =>
    refine windowLaw_of_running he h ?_
    split
    · exact .refl s
    · exact .trans (State.setUnit_keepsMap (s.lockUnit.ticked_keepsService l).staysDefined) (.of_same rfl rfl)
  | leaseExpiry l =>
    exact windowLaw_of_running he h (State.applyLock_keepsMap (s.lockUnit.leaseExpiry_keepsService l).staysDefined)
  | waitTimeout l p =>
    exact windowLaw_of_running he h (State.applyLock_keepsMap (s.lockUnit.timeout_keepsService l p).staysDefined)
  | issueDecision =>
    refine windowLaw_of_running he h ?_
    split <;> exact .of_same rfl rfl
  | issue =>
    refine windowLaw_of_running he h ?_
    split
    · exact s.issueHead_keepsMap _ _ none
    · exact s.issueHead_keepsMap _ _ none
    · exact .refl s
    · exact .refl s
    · exact .refl s
  | incrementClaim =>
    refine windowLaw_of_running he h ?_
    split
    · exact s.claimHead_keepsMap _ _ _ _ _
    · exact .refl s
    · exact .refl s
    · exact .refl s
    · exact .refl s
  | issueSlotFreed =>
    refine windowLaw_of_running he h ?_
    split <;> exact .of_same rfl rfl
  | memCompletion session result data =>
    refine windowLaw_of_running he h ?_
    split
    · split
      · exact .refl s
      · exact s.complete_keepsMap _ _ result data
    · exact .refl s
  | portGoneClaim p =>
    refine windowLaw_of_running he h ?_
    split
    · exact s.takeClaim_keepsMap p
    · exact .refl s
  | faultReport src =>
    refine windowLaw_of_running he h ?_
    split <;> exact .of_same rfl rfl
  | badCommandFrame bytes =>
    refine windowLaw_of_command he h fun r hr => ?_
    split <;> exact hr
  | commandWriteNak =>
    have he : execCommandWriteNak s = .next t := he
    rw [execCommandWriteNak] at he
    split at he
    · obtain rfl := Host.Outcome.next.inj he; exact h
    · split at he <;> (obtain rfl := Host.Outcome.next.inj he; exact h)
  | setClock period =>
    refine windowLaw_of_command he h fun r hr => ?_
    split <;> exact hr
  | setPort port enable cls limit =>
    refine windowLaw_of_command he h fun r hr => ?_
    split
    · exact (r.setPortItems_keepsMap _ _ _ limit).windowLaw hr
    · exact hr
  | setWeight k =>
    refine windowLaw_of_command he h fun r hr => ?_
    split <;> exact hr
  | defineWindow window base pages kind lockRef wp rp => exact execDefineWindow_windowLaw h he
  | enableWindow window => exact execEnableWindow_windowLaw h he
  | disableWindow window => exact execDisableWindow_windowLaw h he
  | readWindow window =>
    refine windowLaw_of_command he h fun r hr => ?_
    split <;> exact hr
  | defineLock lock level lease lp op => exact execDefineLock_windowLaw h he
  | undefineLock lock => exact execUndefineLock_windowLaw h he
  | forceRelease lock => exact execForceRelease_windowLaw h he
  | repairLock lock => exact execRepairLock_windowLaw h he
  | resetPort port =>
    refine windowLaw_of_command he h fun r hr => ?_
    split
    · exact hr
    · rename_i p _
      split
      · exact hr
      · exact (r.portReset_keepsMap p true).windowLaw hr
      · exact hr
  | snapshotLock lock =>
    refine windowLaw_of_command he h fun r hr => ?_
    split
    · exact hr
    · exact (r.latch_keepsMap _).windowLaw hr
  | snapshotPort port =>
    refine windowLaw_of_command he h fun r hr => ?_
    split
    · exact hr
    · exact (r.latch_keepsMap _).windowLaw hr
  | readSnapshot =>
    refine windowLaw_of_command he h fun r hr => ?_
    split <;> exact hr
  | readFault =>
    refine windowLaw_of_command he h fun r hr => ?_
    split <;> exact hr
  | readAlert => exact windowLaw_of_command he h fun _ hr => hr
  | setAlertMask classes => exact windowLaw_of_command he h fun _ hr => hr
  | clearAlert classes => exact windowLaw_of_command he h fun _ hr => hr
  | readStatus => exact windowLaw_of_command he h fun _ hr => hr

end Sys2Proof.Machine

open Sys2Proof Sys2Proof.Machine

/-- Settles O56: the window commands and UNDEFINE_LOCK check what the law asks, and no other command touches the map. -/
theorem windowLawKept : Obligations.WindowLawKept := by
  intro s t h hstep
  rw [step] at hstep
  split at hstep
  · obtain rfl := Host.Outcome.next.inj hstep
    exact h
  · rename_i c rest _
    exact exec_windowLaw (s := { s with pending := rest }) h hstep

end

section
/-! Classification by the window map (R12, R13, R96 to R98), and the window and reading commands of the supervisor (R89 to R95,
R172, R179, R186). -/

namespace Sys2Proof.Machine

/-! ### Classification -/

/-- A request in a BLOCK window (Table 5-3). -/
theorem State.classify_of_block {s : State} {q : Request} {w : WindowId} {d : WindowDef} (p : PortId)
    (hf : s.findWindow q.addr = some (w, d)) (hk : d.kind = .block) :
    s.classify p q = .blocked (accessFault .decode p q w) := by
  rw [State.classify, hf]
  dsimp only
  rw [hk]

/-- A request in a LOCK window (Table 5-3). -/
theorem State.classify_of_lock {s : State} {q : Request} {w : WindowId} {d : WindowDef} {first : LockId} (p : PortId)
    (hf : s.findWindow q.addr = some (w, d)) (hk : d.kind = .lock first) :
    s.classify p q = classifySlot p q w d.base first := by
  rw [State.classify, hf]
  dsimp only
  rw [hk]

/-- No offset of a slot selects MISUSE as its operation (Table 1-3). -/
theorem slotOperation_ne_misuse (offset : Nat) : (slotOperation offset).1 ≠ .misuse := by
  unfold slotOperation
  split <;> exact fun h => nomatch h

theorem slotLock_map_val (n : Nat) : (slotLock n).map Fin.val = if n ≤ 63 then some n else none := by
  unfold slotLock
  by_cases h : n < 64
  · rw [dif_pos h, if_pos (by omega)]
    rfl
  · rw [dif_neg h, if_neg (by omega)]
    rfl

section
variable {q : Request} (p : PortId) (w : WindowId) (base : Nat) (first : LockId)

/-- An access of another size than 4 (R13, R26). -/
theorem classifySlot_of_size (hs : q.size ≠ 4) : classifySlot p q w base first =
    .blocked { accessFault .misuse p q w with lock := slotLock (slotNumber base first q.addr) } := by
  rw [classifySlot, if_pos hs]

/-- An access in the direction of its slot operation (R12). -/
theorem classifySlot_of_direction (hs : q.size = 4) (hd : (slotOperation (q.addr.toNat % 32)).2 = q.kind) :
    classifySlot p q w base first = .lockOp
      { kind := (slotOperation (q.addr.toNat % 32)).1, tag := q.tag, number := slotNumber base first q.addr, window := w,
        addr := q.addr } := by
  rw [classifySlot, if_neg (not_not.2 hs)]
  dsimp only
  rw [slotAccess, if_pos hd, if_neg (slotOperation_ne_misuse _)]

/-- An access in the wrong direction (R13). -/
theorem classifySlot_of_wrong_direction (hs : q.size = 4) (hd : (slotOperation (q.addr.toNat % 32)).2 ≠ q.kind) :
    classifySlot p q w base first = .misuse
      { kind := .misuse, tag := q.tag, number := slotNumber base first q.addr, window := w, addr := q.addr } := by
  rw [classifySlot, if_neg (not_not.2 hs)]
  dsimp only
  rw [slotAccess, if_neg hd, if_pos rfl]

end

/-! ### The parameters of DEFINE_WINDOW -/

theorem writePolicyOf_eq_none {b : Byte} : writePolicyOf b = none ↔ 1 < b.toNat := by
  unfold writePolicyOf
  split
  · subst b; simp
  · split
    · subst b; simp
    · simp only [true_iff]; bv_omega

theorem readPolicyOf_eq_none {b : Byte} : readPolicyOf b = none ↔ 2 < b.toNat := by
  unfold readPolicyOf
  split
  · subst b; simp
  · split
    · subst b; simp
    · split
      · subst b; simp
      · simp only [true_iff]; bv_omega

section
variable {kind lockRef wp rp : Byte}

/-- A kind, a lock reference or a policy out of range, each examined for the kinds that use it (R89). -/
theorem windowKindOf_eq_none : windowKindOf kind lockRef wp rp = none ↔
    (kind ≠ 1 ∧ kind ≠ 2 ∧ kind ≠ 3) ∨ ((kind = 1 ∨ kind = 2) ∧ 63 < lockRef.toNat) ∨
      (kind = 2 ∧ (1 < wp.toNat ∨ 2 < rp.toNat)) := by
  rw [← lockOf_eq_none, ← writePolicyOf_eq_none, ← readPolicyOf_eq_none]
  unfold windowKindOf
  by_cases h1 : kind = 1
  · subst h1; simp
  · by_cases h2 : kind = 2
    · subst h2
      cases lockOf lockRef <;> cases writePolicyOf wp <;> cases readPolicyOf rp <;> simp
    · by_cases h3 : kind = 3
      · subst h3; simp
      · rw [if_neg h1, if_neg h2, if_neg h3]
        exact iff_of_true rfl (.inl ⟨h1, h2, h3⟩)

/-- A LOCK window has the lock of its reference as first lock (R87). -/
theorem windowKindOf_lock {k : WindowKind} (h : windowKindOf 1 lockRef wp rp = some k) :
    ∃ l : LockId, l.val = lockRef.toNat ∧ k = .lock l := by
  obtain ⟨l, hl, rfl⟩ := Option.map_eq_some_iff.1 (show (lockOf lockRef).map WindowKind.lock = some k from h)
  exact ⟨l, lockOf_eq_some.1 hl, rfl⟩

/-- A GUARD window has the lock of its reference and both policies (R87). -/
theorem windowKindOf_guard {k : WindowKind} (h : windowKindOf 2 lockRef wp rp = some k) :
    ∃ (l : LockId) (a : WritePolicy) (b : ReadPolicy), l.val = lockRef.toNat ∧ a.code = wp.toNat ∧ b.code = rp.toNat ∧
      k = .guard l a b := by
  rw [windowKindOf, if_neg (by decide), if_pos rfl] at h
  split at h
  · rename_i l a b hl ha hb
    exact ⟨l, a, b, lockOf_eq_some.1 hl, writePolicyOf_eq_some.1 ha, readPolicyOf_eq_some.1 hb, (Option.some.inj h).symm⟩
  · cases h

/-- A BLOCK window has no other field (R87). -/
theorem windowKindOf_block {k : WindowKind} (h : windowKindOf 3 lockRef wp rp = some k) : k = .block :=
  (Option.some.inj h).symm

/-- A range that is empty or leaves the address space is refused, and so is a kind with its fields (R86, R89). -/
theorem windowDefOf_eq_none {base pages : BitVec 32} : windowDefOf base pages kind lockRef wp rp = none ↔
    pages.toNat = 0 ∨ 1048576 < pages.toNat ∨ 1048575 < base.toNat ∨ 1048576 < base.toNat + pages.toNat ∨
      windowKindOf kind lockRef wp rp = none := by
  have hall : Config.addressPages = 1048576 := rfl
  unfold windowDefOf
  rw [hall]
  split
  · simp only [true_iff]; omega
  · rw [Option.map_eq_none_iff]
    refine ⟨fun h => .inr (.inr (.inr (.inr h))), ?_⟩
    rintro (h | h | h | h | h)
    case inr.inr.inr.inr => exact h
    all_goals omega

end

/-! ### The window commands -/

section
variable {s : State} {window : Byte} {w : WindowId} {d : WindowDef}

/-- DEFINE_WINDOW with a parameter out of range (R89). -/
theorem execDefineWindow_badParam {base pages : BitVec 32} {kind lockRef wp rp : Byte} (hr : s.ready)
    (h : windowOf window = none ∨ windowDefOf base pages kind lockRef wp rp = none) :
    execDefineWindow window base pages kind lockRef wp rp s = .next (s.answered .badParam []) := by
  rw [execDefineWindow, s.command_of_ready _ hr]
  rcases h with h | h
  · rw [h]; rfl
  · rw [h]; cases windowOf window <;> rfl

/-- DEFINE_WINDOW by the state of the window (R90). -/
theorem execDefineWindow_eq {base pages : BitVec 32} {kind lockRef wp rp : Byte} (hr : s.ready)
    (hw : windowOf window = some w) (hd : windowDefOf base pages kind lockRef wp rp = some d) :
    execDefineWindow window base pages kind lockRef wp rp s = .next (
      if (s.window w).isEnabled then s.answered .inUse [] else (s.setWindow w (.defined d)).answered .done []) := by
  rw [execDefineWindow, s.command_of_ready _ hr, hw, hd]
  rfl

theorem WindowRecord.isEnabled_iff (r : WindowRecord) : r.isEnabled = true ↔ ∃ d, r = .enabled d := by
  cases r <;> simp [WindowRecord.isEnabled]

@[simp] theorem State.acknowledge_overlapping (s : State) (b : Bool) (w : WindowId) (d : WindowDef) :
    (s.acknowledge b).overlapping w d = s.overlapping w d := rfl

theorem execEnableWindow_badParam (hr : s.ready) (hw : windowOf window = none) :
    execEnableWindow window s = .next (s.answered .badParam []) := by
  rw [execEnableWindow, s.command_of_ready _ hr, hw]
  rfl

/-- ENABLE_WINDOW of a window that is not DEFINED (R91 check 2). -/
theorem execEnableWindow_notDefined (hr : s.ready) (hw : windowOf window = some w) (h : ∀ d, s.window w ≠ .defined d) :
    execEnableWindow window s = .next (s.answered .notDefined []) := by
  rw [execEnableWindow, s.command_of_ready _ hr, hw]
  dsimp only
  rw [State.acknowledge_window]
  cases hs : s.window w with
  | undefined => rfl
  | defined d => exact absurd hs (h d)
  | enabled d => rfl

/-- ENABLE_WINDOW of a DEFINED window: checks 3 and 4 (R91, R92). -/
theorem execEnableWindow_defined (hr : s.ready) (hw : windowOf window = some w) (hs : s.window w = .defined d) :
    execEnableWindow window s = .next (
      if s.guardsUndefined d then s.answered .notDefined []
      else (s.overlapping w d).elim ((s.setWindow w (.enabled d)).answered .done [])
        fun v => s.answered .overlap [byteOf v.val]) := by
  rw [execEnableWindow, s.command_of_ready _ hr, hw]
  dsimp only
  rw [State.acknowledge_window, hs]
  dsimp only
  rw [State.acknowledge_overlapping]
  cases s.overlapping w d <;> rfl

theorem execDisableWindow_badParam (hr : s.ready) (hw : windowOf window = none) :
    execDisableWindow window s = .next (s.answered .badParam []) := by
  rw [execDisableWindow, s.command_of_ready _ hr, hw]
  rfl

/-- DISABLE_WINDOW of an UNDEFINED window (R94). -/
theorem execDisableWindow_undefined (hr : s.ready) (hw : windowOf window = some w) (hs : s.window w = .undefined) :
    execDisableWindow window s = .next (s.answered .notDefined []) := by
  rw [execDisableWindow, s.command_of_ready _ hr, hw]
  dsimp only
  rw [State.acknowledge_window, hs]
  rfl

/-- DISABLE_WINDOW of a DEFINED window (R94). -/
theorem execDisableWindow_defined (hr : s.ready) (hw : windowOf window = some w) (hs : s.window w = .defined d) :
    execDisableWindow window s = .next (s.answered .done []) := by
  rw [execDisableWindow, s.command_of_ready _ hr, hw]
  dsimp only
  rw [State.acknowledge_window, hs]
  rfl

/-- DISABLE_WINDOW of an ENABLED window: a busy lock that it maps keeps it so (R93, R94). -/
theorem execDisableWindow_enabled (hr : s.ready) (hw : windowOf window = some w) (hs : s.window w = .enabled d) :
    execDisableWindow window s = .next ((s.lockUnit.keepsEnabled d).elim ((s.setWindow w (.defined d)).answered .done [])
      fun l => s.answered .inUse [byteOf l.val]) := by
  rw [execDisableWindow, s.command_of_ready _ hr, hw]
  dsimp only
  rw [State.acknowledge_window, hs]
  dsimp only
  rw [State.acknowledge_lockUnit]
  cases s.lockUnit.keepsEnabled d <;> rfl

end

/-! ### Locks that keep a LOCK window ENABLED -/

/-- The lock has holders or waiters, drains, or has a revoked entry standing (R93). -/
def LockUnit.IsBusy (u : LockUnit) (l : LockId) : Prop :=
  (u.lock l).holders ≠ [] ∨ (u.lock l).waiters ≠ [] ∨ (u.lock l).state = .draining ∨
    ∃ p, ∃ e ∈ u.held p, e.lock = l ∧ e.revoked = true

theorem LockUnit.busy_iff (u : LockUnit) (l : LockId) : u.busy l = true ↔ u.IsBusy l := by
  simp [LockUnit.busy, LockUnit.IsBusy, or_assoc]

/-- The window of `d` is a LOCK window that maps the busy lock `l` (R93). -/
def LockUnit.MapsBusy (u : LockUnit) (d : WindowDef) (l : LockId) : Prop :=
  ∃ first : LockId, d.kind = .lock first ∧ first.val ≤ l.val ∧ l.val < first.val + 128 * d.pages ∧ u.IsBusy l

/-- The search of DISABLE_WINDOW is for the busy locks that the window maps (R93). -/
theorem LockUnit.keepsEnabled_eq (u : LockUnit) (d : WindowDef) :
    ∃ f : LockId → Bool, (∀ l, f l = true ↔ u.MapsBusy d l) ∧ u.keepsEnabled d = (List.finRange 64).find? f := by
  unfold LockUnit.keepsEnabled LockUnit.MapsBusy
  cases d.kind with
  | lock first =>
    refine ⟨_, fun l => ?_, rfl⟩
    simp only [Bool.and_eq_true, decide_eq_true_eq, u.busy_iff, WindowKind.lock.injEq, exists_eq_left', and_assoc]
  | guard l wp rp => exact ⟨fun _ => false, by simp, (List.find?_eq_none.2 fun _ _ => Bool.false_ne_true).symm⟩
  | block => exact ⟨fun _ => false, by simp, (List.find?_eq_none.2 fun _ _ => Bool.false_ne_true).symm⟩

theorem LockUnit.keepsEnabled_eq_some {u : LockUnit} {d : WindowDef} {l : LockId} (hl : u.MapsBusy d l)
    (hlow : ∀ k, k < l → ¬u.MapsBusy d k) : u.keepsEnabled d = some l := by
  obtain ⟨f, hf, heq⟩ := u.keepsEnabled_eq d
  rw [heq]
  exact find?_finRange_of_lowest hf hl hlow

theorem LockUnit.keepsEnabled_eq_none {u : LockUnit} {d : WindowDef} (h : ∀ l, ¬u.MapsBusy d l) :
    u.keepsEnabled d = none := by
  obtain ⟨f, hf, heq⟩ := u.keepsEnabled_eq d
  rw [heq]
  exact (find?_finRange_eq_none hf).2 h

/-! ### The reading commands -/

section
variable {s : State} {window : Byte}

theorem execReadWindow_badParam (hr : s.ready) (hw : windowOf window = none) :
    execReadWindow window s = .next (s.answered .badParam []) := by
  rw [execReadWindow, s.command_of_ready _ hr, hw]
  rfl

/-- READ_WINDOW returns the record (R95). -/
theorem execReadWindow_eq {w : WindowId} (hr : s.ready) (hw : windowOf window = some w) :
    execReadWindow window s = .next (s.answered .done (windowBytes w (s.window w))) := by
  rw [execReadWindow, s.command_of_ready _ hr, hw]
  rfl

/-- The number of a window is written back as it was read (R179). -/
theorem byteOf_of_windowOf {w : WindowId} (hw : windowOf window = some w) : byteOf w.val = window := by
  rw [byteOf, windowOf_eq_some.1 hw, BitVec.ofNat_toNat, BitVec.setWidth_eq]

/-- An UNDEFINED window has no fields, so all of them are read as 0 (R179). -/
theorem windowBytes_undefined {w : WindowId} (hw : windowOf window = some w) :
    windowBytes w .undefined = window :: List.replicate 13 0 := by
  rw [windowBytes, byteOf_of_windowOf hw]

/-- The fields of a window stand behind its number and its state (R179). -/
theorem windowBytes_defined {w : WindowId} (hw : windowOf window = some w) (d : WindowDef) :
    windowBytes w (.defined d) = [window, 1] ++ d.bytes := by
  rw [windowBytes, byteOf_of_windowOf hw]
  rfl

/-- The same of an ENABLED window (R179). -/
theorem windowBytes_enabled {w : WindowId} (hw : windowOf window = some w) (d : WindowDef) :
    windowBytes w (.enabled d) = [window, 2] ++ d.bytes := by
  rw [windowBytes, byteOf_of_windowOf hw]
  rfl

end

end Sys2Proof.Machine

open Sys2Proof Sys2Proof.Machine

/-- Settles O13: the one window that decodes the address decides, in a LOCK window by size and then by direction. -/
theorem classificationByWindow : Obligations.ClassificationByWindow := by
  refine ⟨fun p q s hout => ?_, fun p q s w d law hw h1 h2 => ?_, rfl, rfl, rfl, rfl, rfl, rfl, rfl, rfl⟩
  · rw [State.classify, s.findWindow_eq_none _ hout]
  · have hf := s.findWindow_eq_some _ law hw h1 h2
    refine ⟨fun hk => State.classify_of_block p hf hk, fun first hk => ?_⟩
    rw [State.classify_of_lock p hf hk]
    exact ⟨fun hs => ⟨_, classifySlot_of_size p w d.base first hs, slotLock_map_val _, rfl⟩,
      classifySlot_of_direction p w d.base first, classifySlot_of_wrong_direction p w d.base first⟩

/-- Settles O45: reading the parameters fails exactly for the ranges of R89, and gives the fields otherwise. -/
theorem defineWindowByState : Obligations.DefineWindowByState := by
  intro window base pages kind lockRef wp rp s hr
  have hbad : (windowOf window = none ∨ windowDefOf base pages kind lockRef wp rp = none) ↔ _ :=
    or_congr windowOf_eq_none windowDefOf_eq_none
  rw [windowKindOf_eq_none] at hbad
  refine ⟨fun h => execDefineWindow_badParam hr (hbad.2 h), fun h => ?_⟩
  rw [← hbad, not_or] at h
  obtain ⟨hnw, hnd⟩ := h
  obtain ⟨w, hw⟩ := Option.ne_none_iff_exists'.1 hnw
  obtain ⟨d, hd⟩ := Option.ne_none_iff_exists'.1 hnd
  obtain ⟨-, hbase, hpages, hkind⟩ := windowDefOf_eq_some.1 hd
  refine ⟨w, d, windowOf_eq_some.1 hw, hbase, hpages, fun h => windowKindOf_lock (h ▸ hkind),
    fun h => windowKindOf_guard (h ▸ hkind), fun h => windowKindOf_block (h ▸ hkind), fun h => ?_, fun h => ?_⟩
  · refine (execDefineWindow_eq hr hw hd).trans ?_
    rw [if_neg (mt (s.window w).isEnabled_iff.1 (not_exists.2 h))]
  · refine (execDefineWindow_eq hr hw hd).trans ?_
    rw [if_pos ((s.window w).isEnabled_iff.2 h)]

/-- Settles O46: both searches, for a window that shares a page and for a busy lock, find the lowest number. -/
theorem enableAndDisableWindow : Obligations.EnableAndDisableWindow := by
  refine ⟨fun window s hr => ⟨fun hbad => ?_, fun w hw => ⟨fun hs => ?_, fun d hs => ⟨fun hg => ?_,
      fun hg v hv hlow => ?_, fun hg hno => ?_⟩⟩⟩,
    fun window s hr => ⟨fun hbad => ?_, fun w hw => ⟨fun hs => ?_, fun d hs => ?_, fun d hs => ⟨fun l hl hlow => ?_,
      fun hno => ?_⟩⟩⟩⟩
  · exact execEnableWindow_badParam hr (windowOf_eq_none.2 hbad)
  · exact execEnableWindow_notDefined hr (windowOf_eq_some.2 hw) hs
  · refine (execEnableWindow_defined hr (windowOf_eq_some.2 hw) hs).trans ?_
    rw [if_pos ((s.guardsUndefined_iff d).2 hg)]
  · refine (execEnableWindow_defined hr (windowOf_eq_some.2 hw) hs).trans ?_
    rw [if_neg (mt (s.guardsUndefined_iff d).1 hg), State.overlapping_eq_some hv hlow]
    rfl
  · refine (execEnableWindow_defined hr (windowOf_eq_some.2 hw) hs).trans ?_
    rw [if_neg (mt (s.guardsUndefined_iff d).1 hg), State.overlapping_eq_none.2 hno]
    rfl
  · exact execDisableWindow_badParam hr (windowOf_eq_none.2 hbad)
  · exact execDisableWindow_undefined hr (windowOf_eq_some.2 hw) hs
  · exact execDisableWindow_defined hr (windowOf_eq_some.2 hw) hs
  · refine (execDisableWindow_enabled hr (windowOf_eq_some.2 hw) hs).trans ?_
    rw [LockUnit.keepsEnabled_eq_some hl hlow]
    rfl
  · refine (execDisableWindow_enabled hr (windowOf_eq_some.2 hw) hs).trans ?_
    rw [LockUnit.keepsEnabled_eq_none hno]
    rfl

/-- Settles O47: each command is one answer formed from the state as it stands. -/
theorem readingCommands : Obligations.ReadingCommands := by
  refine ⟨fun window s hr => ⟨fun hbad => ?_, fun w hw => ?_⟩, fun s hr => ?_, fun s => ⟨fun hr => ?_, fun p hp => ?_⟩⟩
  · exact execReadWindow_badParam hr (windowOf_eq_none.2 hbad)
  · have hw := windowOf_eq_some.2 hw
    have heq := execReadWindow_eq hr hw
    refine ⟨fun hs => ?_, fun d hs => ?_, fun d hs => ?_⟩
    · rw [hs, windowBytes_undefined hw] at heq
      exact heq
    · rw [hs, windowBytes_defined hw] at heq
      exact heq
    · rw [hs, windowBytes_enabled hw] at heq
      exact heq
  · exact congrArg Host.Outcome.next (s.command_of_ready _ hr)
  · exact congrArg Host.Outcome.next (s.command_of_ready _ hr)
  · exact congrArg Host.Outcome.next (s.command_of_inProgress _ hp)

end

section
/-! The guard check (R104 to R106, Tables 6-1 and 6-2): which check a request in a GUARD window meets, and each row of it. -/

namespace Sys2Proof.Machine

/-- A write in a GUARD window (R104). -/
theorem State.classify_of_guardWrite {s : State} {q : Request} {w : WindowId} {d : WindowDef} {l : LockId} {wp : WritePolicy}
    {rp : ReadPolicy} (p : PortId) (hf : s.findWindow q.addr = some (w, d)) (hk : d.kind = .guard l wp rp)
    (hq : q.kind = .write) : s.classify p q = s.lockUnit.guardWrite p q w l wp := by
  rw [State.classify, hf]
  dsimp only
  rw [hk]
  dsimp only
  rw [hq]

/-- A read in a GUARD window (R105). -/
theorem State.classify_of_guardRead {s : State} {q : Request} {w : WindowId} {d : WindowDef} {l : LockId} {wp : WritePolicy}
    {rp : ReadPolicy} (p : PortId) (hf : s.findWindow q.addr = some (w, d)) (hk : d.kind = .guard l wp rp)
    (hq : q.kind = .read) : s.classify p q = s.lockUnit.guardRead p q w l rp := by
  rw [State.classify, hf]
  dsimp only
  rw [hk]
  dsimp only
  rw [hq]

section
variable {u : LockUnit} {p : PortId} {l : LockId} (q : Request) (w : WindowId)

/-- Table 6-1, the row of the exclusive holder. -/
theorem LockUnit.guardWrite_of_holder (wp : WritePolicy) (h : u.holdsExclusive p l = true) :
    u.guardWrite p q w l wp = .guardAuthorized l w wp := if_pos h

/-- Table 6-1, any other port under DROP. -/
theorem LockUnit.guardWrite_drop (h : ¬u.holdsExclusive p l = true) : u.guardWrite p q w l .drop =
    .blocked (guardFault .guardWrite p q.tag w q.addr l (u.lock l).generation) := if_neg h

/-- Table 6-1, any other port under PASS. -/
theorem LockUnit.guardWrite_pass (h : ¬u.holdsExclusive p l = true) : u.guardWrite p q w l .pass =
    .guardPassed (guardFault .guardWrite p q.tag w q.addr l (u.lock l).generation) := if_neg h

/-- Table 6-2, a holder or a window open to reads. -/
theorem LockUnit.guardRead_plain {rp : ReadPolicy} (h : rp = .openAll ∨ u.holdsLive p l = true) :
    u.guardRead p q w l rp = .plain := by
  cases rp with
  | openAll => rfl
  | drop => exact if_pos (h.resolve_left fun h => nomatch h)
  | pass => exact if_pos (h.resolve_left fun h => nomatch h)

/-- Table 6-2, any other port under DROP. -/
theorem LockUnit.guardRead_drop (h : ¬u.holdsLive p l = true) : u.guardRead p q w l .drop =
    .blocked (guardFault .guardRead p q.tag w q.addr l (u.lock l).generation) := if_neg h

/-- Table 6-2, any other port under PASS. -/
theorem LockUnit.guardRead_pass (h : ¬u.holdsLive p l = true) : u.guardRead p q w l .pass =
    .guardPassed (guardFault .guardRead p q.tag w q.addr l (u.lock l).generation) := if_neg h

end

end Sys2Proof.Machine

open Sys2Proof Sys2Proof.Machine

/-- Settles O14: the one window that decodes the address is the GUARD window, and the port's entry decides. -/
theorem guardCheckTables : Obligations.GuardCheckTables := by
  intro p q s w d l wp rp law hw hk h1 h2 fault live liveExclusive
  have hf := s.findWindow_eq_some _ law hw h1 h2
  have hlive : s.lockUnit.holdsLive p l = true ↔ live := s.lockUnit.holdsLive_iff p l
  have hexclusive : s.lockUnit.holdsExclusive p l = true ↔ liveExclusive := s.lockUnit.holdsExclusive_iff p l
  refine ⟨fun hq hx => ?_, fun hq hx hp => ?_, fun hq hx hp => ?_, fun hq hx => ?_, fun hq hp hx => ?_, fun hq hp hx => ?_⟩
  · rw [State.classify_of_guardWrite p hf hk hq]
    exact LockUnit.guardWrite_of_holder q w wp (hexclusive.2 hx)
  · rw [State.classify_of_guardWrite p hf hk hq, hp]
    exact LockUnit.guardWrite_drop q w (hexclusive.not.2 hx)
  · rw [State.classify_of_guardWrite p hf hk hq, hp]
    exact LockUnit.guardWrite_pass q w (hexclusive.not.2 hx)
  · rw [State.classify_of_guardRead p hf hk hq]
    exact LockUnit.guardRead_plain q w (hx.imp_right hlive.2)
  · rw [State.classify_of_guardRead p hf hk hq, hp]
    exact LockUnit.guardRead_drop q w (hlive.not.2 hx)
  · rw [State.classify_of_guardRead p hf hk hq, hp]
    exact LockUnit.guardRead_pass q w (hlive.not.2 hx)

end

section
/-! The law of guard-flight counts (R108, R109): which events leave the counts, the flight table's guards and the guarded heads
alone, and how an issue and a completion move count and table together. -/

namespace Sys2Proof.Machine

/-! ### Guarded heads are writes -/

/-- A GUARD-AUTHORIZED head stands at the front of its queue and is a write (R97). -/
def GuardedHeadIsWrite (c : Option HeadClass) (queue : List Request) : Prop :=
  ∀ l w k, c = some (.guardAuthorized l w k) → ∃ q, queue.head? = some q ∧ q.kind = .write

theorem GuardedHeadIsWrite.of_not_guarded {c : Option HeadClass} (h : ∀ l w k, c ≠ some (.guardAuthorized l w k))
    (queue : List Request) : GuardedHeadIsWrite c queue := fun l w k hc => absurd hc (h l w k)

theorem GuardedHeadIsWrite.of_none (queue : List Request) : GuardedHeadIsWrite none queue :=
  .of_not_guarded (by simp) queue

/-- A request that joins the queue does not touch its head. -/
theorem GuardedHeadIsWrite.join {c : Option HeadClass} {queue : List Request} (h : GuardedHeadIsWrite c queue) (q : Request) :
    GuardedHeadIsWrite c (queue ++ [q]) := by
  intro l w k hc
  obtain ⟨q', hq', hk⟩ := h l w k hc
  exact ⟨q', by rw [List.head?_append, hq']; rfl, hk⟩

theorem LockUnit.guardRead_ne_guardAuthorized (u : LockUnit) (p : PortId) (q : Request) (w v : WindowId) (l k : LockId)
    (rp : ReadPolicy) (wp : WritePolicy) : u.guardRead p q w l rp ≠ .guardAuthorized k v wp := by
  unfold LockUnit.guardRead
  split
  · exact fun h => nomatch h
  · split <;> exact fun h => nomatch h
  · split <;> exact fun h => nomatch h

theorem classifySlot_ne_guardAuthorized (p : PortId) (q : Request) (w v : WindowId) (base : Nat) (first k : LockId)
    (wp : WritePolicy) : classifySlot p q w base first ≠ .guardAuthorized k v wp := by
  rw [classifySlot]
  split
  · exact fun h => nomatch h
  · dsimp only
    split <;> exact fun h => nomatch h

/-- Only a write is GUARD-AUTHORIZED (R97, Table 6-1). -/
theorem State.kind_of_classify_guardAuthorized {s : State} {p : PortId} {q : Request} {l : LockId} {w : WindowId}
    {k : WritePolicy} (h : s.classify p q = .guardAuthorized l w k) : q.kind = .write := by
  rw [State.classify] at h
  split at h
  · cases h
  · split at h
    · cases h
    · exact absurd h (classifySlot_ne_guardAuthorized p q _ w _ _ l k)
    · split at h
      · assumption
      · exact absurd h (LockUnit.guardRead_ne_guardAuthorized _ p q _ w _ l _ k)

/-- Head handling leaves a GUARD-AUTHORIZED head only where it classified a write (R127). -/
theorem State.runHeads_guarded (s : State) (p : PortId) (n : Nat) (queue : List Request) :
    GuardedHeadIsWrite (s.runHeads p n queue).headClass (s.runHeads p n queue).queue := by
  induction queue with
  | nil => exact .of_none _
  | cons q qs ih =>
    rw [State.runHeads]
    split
    · exact .of_not_guarded (by simp [waitingHead]) _
    · rename_i hc
      exact fun _ _ _ _ => ⟨q, rfl, State.kind_of_classify_guardAuthorized hc⟩
    · exact .of_not_guarded (by simp [waitingHead]) _
    · exact ih
    · split
      · exact .of_not_guarded (by simp [waitingHead]) _
      · exact .of_none _
    · exact .of_none _

theorem State.headRun_guarded {s : State} {p : PortId} (h : GuardedHeadIsWrite (s.port p).headClass (s.port p).queue) :
    GuardedHeadIsWrite (s.headRun p).headClass (s.headRun p).queue := by
  rw [State.headRun]
  split
  · exact s.runHeads_guarded p _ _
  · exact h

/-! ### What leaves counts, guards and guarded heads alone -/

/-- The part of a flight-table entry that the law reads. -/
def FlightEntry.guardKind (e : FlightEntry) : Option LockId × ReqKind := (e.guard, e.kind)

/-- From `s` to `t` every guard-flight count is kept, the flight table keeps its guards and kinds in order, and a guarded head
that is a write stays one. -/
structure State.KeepsGuards (s t : State) : Prop where
  counts : ∀ l, (t.lockUnit.lock l).guardFlight = (s.lockUnit.lock l).guardFlight
  entries : t.memPort.table.map FlightEntry.guardKind = s.memPort.table.map FlightEntry.guardKind
  heads : ∀ p, GuardedHeadIsWrite (s.port p).headClass (s.port p).queue →
    GuardedHeadIsWrite (t.port p).headClass (t.port p).queue

theorem State.KeepsGuards.of_same {s t : State} (hu : t.lockUnit = s.lockUnit) (ht : t.memPort.table = s.memPort.table)
    (hp : t.ports = s.ports) : s.KeepsGuards t :=
  ⟨fun l => by rw [hu], by rw [ht], fun p h => by rwa [State.port, hp]⟩

theorem State.KeepsGuards.refl (s : State) : s.KeepsGuards s := .of_same rfl rfl rfl

theorem State.KeepsGuards.trans {s t r : State} (h : s.KeepsGuards t) (h' : t.KeepsGuards r) : s.KeepsGuards r :=
  ⟨fun l => (h'.counts l).trans (h.counts l), h'.entries.trans h.entries, fun p hp => h'.heads p (h.heads p hp)⟩

theorem countP_guard_eq (table : List FlightEntry) (l : LockId) : table.countP (fun e => e.guard == some l) =
    (table.map FlightEntry.guardKind).countP (fun x => x.1 == some l) := by
  rw [List.countP_map]
  rfl

theorem guards_are_writes_iff (table : List FlightEntry) : (∀ e ∈ table, e.guard ≠ none → e.kind = .write) ↔
    ∀ x ∈ table.map FlightEntry.guardKind, x.1 ≠ none → x.2 = .write := by
  rw [List.forall_mem_map]
  rfl

/-- The law reads nothing else (R108, R109). -/
theorem State.KeepsGuards.guardLaw {s t : State} (hk : s.KeepsGuards t) (h : s.GuardLaw) : t.GuardLaw := by
  obtain ⟨hcounts, hwrites, hheads⟩ := h
  refine ⟨fun l => ?_, ?_, fun p => hk.heads p (hheads p)⟩
  · rw [hk.counts, hcounts, countP_guard_eq, countP_guard_eq, hk.entries]
  · rwa [guards_are_writes_iff, hk.entries, ← guards_are_writes_iff]

/-- One port is written, and nothing else that the law reads. -/
theorem State.KeepsGuards.of_setPort {s t : State} {p : PortId} {r : PortRecord} (hp : t.ports = (s.setPort p r).ports)
    (hu : t.lockUnit = s.lockUnit) (ht : t.memPort.table = s.memPort.table)
    (h : GuardedHeadIsWrite (s.port p).headClass (s.port p).queue → GuardedHeadIsWrite r.headClass r.queue) :
    s.KeepsGuards t := by
  refine ⟨fun l => by rw [hu], by rw [ht], fun q hq => ?_⟩
  have hport : t.port q = (s.setPort p r).port q := by rw [State.port, hp, State.port]
  rw [hport, State.port_setPort]
  split
  · subst q
    exact h hq
  · exact hq

theorem State.setPort_keepsGuards {s : State} {p : PortId} {r : PortRecord}
    (h : GuardedHeadIsWrite (s.port p).headClass (s.port p).queue → GuardedHeadIsWrite r.headClass r.queue) :
    s.KeepsGuards (s.setPort p r) := .of_setPort rfl rfl rfl h

theorem State.setUnit_keepsGuards {s : State} {u : LockUnit}
    (h : ∀ l, (u.lock l).guardFlight = (s.lockUnit.lock l).guardFlight) : s.KeepsGuards (s.setUnit u) :=
  ⟨h, rfl, fun _ hp => hp⟩

theorem State.report_keepsGuards (s : State) (src : FaultSource) (fs : List FaultInfo) : s.KeepsGuards (s.report src fs) :=
  .of_same (s.report_lockUnit src fs) (by rw [s.report_memPort]) (s.report_ports src fs)

theorem State.deliver_keepsGuards (s : State) (as : List Answer) : s.KeepsGuards (s.deliver as) := by
  have hrest := s.deliver_eq as
  refine ⟨fun l => by rw [hrest], by rw [hrest], fun p hp => ?_⟩
  rw [State.deliver_port]
  exact hp

/-- Of an event at the lock unit only the lock unit matters. -/
theorem State.setUnit_keepsGuards_applyLock (s : State) (e : LockEffect) : (s.setUnit e.unit).KeepsGuards (s.applyLock e) :=
  (State.deliver_keepsGuards _ e.answers).trans (State.report_keepsGuards _ _ _)

theorem State.applyLock_keepsGuards {s : State} {e : LockEffect} (h : s.lockUnit.KeepsService e.unit) :
    s.KeepsGuards (s.applyLock e) :=
  (State.setUnit_keepsGuards fun l => (h l).1).trans (s.setUnit_keepsGuards_applyLock e)

theorem State.formFrames_keepsGuards (s : State) (p : PortId) (fs : List Frame) : s.KeepsGuards (s.formFrames p fs) :=
  .of_setPort rfl rfl rfl id

theorem State.advance_keepsGuards (s : State) (p : PortId) (own : List Frame) : s.KeepsGuards (s.advance p own) := by
  obtain ⟨fs, n, -, h⟩ := s.advance_writes p own
  rw [h]
  exact .of_setPort rfl rfl rfl State.headRun_guarded

theorem State.finishOp_keepsGuards {s : State} {e : LockEffect} (p : PortId) (h : s.lockUnit.KeepsService e.unit) :
    s.KeepsGuards (s.finishOp p e) := by
  have htaken : s.KeepsGuards (s.setPort p { s.port p with handed := none, stale := false }) := State.setPort_keepsGuards id
  rw [State.finishOp]
  refine .trans (htaken.trans (State.applyLock_keepsGuards ?_)) (State.advance_keepsGuards _ p _)
  exact h

theorem State.takeOp_keepsGuards (s : State) (p : PortId) (k : LockOpKind) :
    s.KeepsGuards (s.takeOp p k (s.slotEffect p k)) := by
  rw [State.takeOp]
  split
  · exact .refl s
  · split
    · exact State.finishOp_keepsGuards p (s.slotEffect_keepsService p k _)
    · exact .refl s

@[simp] theorem PortRecord.sendNotice_headClass (r : PortRecord) (n : Notice) : (r.sendNotice n).headClass = r.headClass := by
  rw [PortRecord.sendNotice]
  split <;> rfl

@[simp] theorem PortRecord.sendNotice_queue (r : PortRecord) (n : Notice) : (r.sendNotice n).queue = r.queue := by
  rw [PortRecord.sendNotice]
  split <;> rfl

/-- A port reset discards the head (R152). -/
@[simp] theorem PortRecord.reset_headClass (r : PortRecord) (close : Bool) : (r.reset close).headClass = none := by
  rw [PortRecord.reset]
  split
  · exact PortRecord.sendNotice_headClass _ _
  · rfl

/-- Detached entries keep their guards and kinds (R148). -/
theorem detach_guardKind (p : PortId) (table : List FlightEntry) :
    (detach p table).map FlightEntry.guardKind = table.map FlightEntry.guardKind := by
  rw [detach, List.map_map]
  refine List.map_congr_left fun e _ => ?_
  rw [Function.comp_apply]
  split <;> rfl

theorem State.portReset_keepsGuards (s : State) (p : PortId) (close : Bool) : s.KeepsGuards (s.portReset p close) := by
  have hport : s.KeepsGuards (s.setPort p ((s.port p).reset close)) :=
    State.setPort_keepsGuards fun _ => by rw [PortRecord.reset_headClass]; exact .of_none _
  exact hport.trans ⟨fun _ => rfl, detach_guardKind p _, fun _ hq => hq⟩

theorem State.linkLoss_keepsGuards (s : State) (p : PortId) : s.KeepsGuards (s.linkLoss p) :=
  (s.report_keepsGuards _ _).trans (State.portReset_keepsGuards _ p false)

theorem State.endReset_keepsGuards (s : State) (p : PortId) : s.KeepsGuards (s.endReset p) := by
  obtain ⟨l, sup, h, -⟩ := s.endReset_writes p
  rw [h]
  exact .of_setPort rfl rfl rfl id

/-- A NOTICE is sent, whatever else the port counts. -/
theorem State.notice_keepsGuards {s : State} {p : PortId} {r : PortRecord} (n : Notice)
    (hc : r.headClass = (s.port p).headClass) (hq : r.queue = (s.port p).queue) :
    s.KeepsGuards (s.setPort p (r.sendNotice n)) :=
  State.setPort_keepsGuards fun h => by
    rwa [PortRecord.sendNotice_headClass, PortRecord.sendNotice_queue, hc, hq]

theorem State.takeOpen_keepsGuards (s : State) (p : PortId) : s.KeepsGuards (s.takeOpen p) := by
  have hopened : ∀ l, s.KeepsGuards
      (s.setPort p { (s.port p).sendNotice .openAck with link := l, badCount := 0, receiveCount := 0 }) := fun l =>
    State.setPort_keepsGuards fun h => by simpa using h
  rw [State.takeOpen]
  dsimp only
  split
  · split
    · exact hopened _
    · exact State.notice_keepsGuards _ rfl rfl
  · exact hopened _
  · exact .refl s

theorem State.takeClose_keepsGuards (s : State) (p : PortId) : s.KeepsGuards (s.takeClose p) := by
  rw [State.takeClose]
  split
  · exact State.notice_keepsGuards _ rfl rfl
  · exact s.portReset_keepsGuards p true
  · exact .refl s

theorem State.takeSilence_keepsGuards (s : State) (p : PortId) : s.KeepsGuards (s.takeSilence p) := by
  rw [State.takeSilence]
  split
  · exact s.linkLoss_keepsGuards p
  · exact .refl s
  · exact .refl s

theorem State.takeBadFrame_keepsGuards (s : State) (p : PortId) : s.KeepsGuards (s.takeBadFrame p) := by
  rw [State.takeBadFrame]
  dsimp only
  split
  · exact State.notice_keepsGuards _ rfl rfl
  · exact .refl s
  · split
    · refine .trans ?_ (State.linkLoss_keepsGuards _ p)
      exact State.notice_keepsGuards _ rfl rfl
    · exact State.notice_keepsGuards _ rfl rfl

theorem State.refuseRequest_keepsGuards (s : State) (p : PortId) (tag : Tag) (addr : Word) (reason : ProtocolReason) :
    s.KeepsGuards (s.refuseRequest p tag addr reason) :=
  .trans (State.notice_keepsGuards _ rfl rfl) (State.report_keepsGuards _ _ _)

/-- An accepted request joins the tail of the queue (R124). -/
theorem State.acceptRequest_keepsGuards (s : State) (p : PortId) (q : Request) : s.KeepsGuards (s.acceptRequest p q) := by
  rw [State.acceptRequest]
  refine .trans (State.setPort_keepsGuards fun h => ?_) (State.advance_keepsGuards _ p [])
  exact h.join q

theorem State.takeRequest_keepsGuards (s : State) (p : PortId) (kind : BitVec 4) (tag : Tag) (size : Byte) (addr : Word)
    (data : List Byte) : s.KeepsGuards (s.takeRequest p kind tag size addr data) := by
  have hgood : s.KeepsGuards (s.setPort p (s.port p).goodFrame) := State.setPort_keepsGuards id
  rw [State.takeRequest]
  split
  · exact s.refuseRequest_keepsGuards p tag addr _
  · exact .refl s
  · dsimp only
    split
    · exact hgood.trans (State.refuseRequest_keepsGuards _ p tag addr _)
    · exact hgood.trans (State.acceptRequest_keepsGuards _ p _)

/-- A sent frame leaves queue and head as they are (R133). -/
theorem State.sent_keepsGuards (s : State) (p : PortId) : s.KeepsGuards (s.setPort p (s.port p).sent) := by
  refine State.setPort_keepsGuards fun h => ?_
  rw [PortRecord.sent]
  split <;> exact h

theorem State.dropHead_keepsGuards (s : State) (p : PortId) (q : Request) : s.KeepsGuards (s.dropHead p q) := by
  rw [State.dropHead]
  refine .trans ?_ (State.advance_keepsGuards _ p _)
  exact .of_setPort rfl rfl rfl fun _ => .of_none _

/-- The fence takes away a head that is no guarded one, or none (R130). -/
theorem PortRecord.openFence_guarded {r : PortRecord} (h : GuardedHeadIsWrite r.headClass r.queue) :
    GuardedHeadIsWrite r.openFence.headClass r.openFence.queue := by
  rw [PortRecord.openFence]
  split
  · split
    · exact .of_none _
    · exact h
  · exact h
  · exact h
  · exact h
  · exact h

theorem State.completeAtPort_keepsGuards (s : State) (e : FlightEntry) : s.KeepsGuards (s.completeAtPort e) :=
  .trans (State.setPort_keepsGuards fun h => PortRecord.openFence_guarded (r := (s.port e.port).completed .write) h)
    (State.endReset_keepsGuards _ e.port)

theorem State.completeRead_keepsGuards (s : State) (e : FlightEntry) (failed : Bool) (data : List Byte) :
    s.KeepsGuards (s.completeRead e failed data) := by
  have hcounted : s.KeepsGuards (s.setPort e.port ((s.port e.port).completed .read)) := State.setPort_keepsGuards id
  rw [State.completeRead]
  refine .trans ?_ (State.endReset_keepsGuards _ e.port)
  exact .trans (hcounted.trans (State.formFrames_keepsGuards _ _ _)) (State.report_keepsGuards _ _ _)

/-- The port-gone claim (R154). -/
theorem State.takeClaim_keepsGuards (s : State) (p : PortId) : s.KeepsGuards (s.takeClaim p) := by
  rw [State.takeClaim]
  have htaken := State.applyLock_keepsGuards (s.lockUnit.claim_keepsService p)
  refine .trans (htaken.trans ?_) (State.endReset_keepsGuards _ p)
  exact State.setPort_keepsGuards id

theorem State.setPortItems_keepsGuards (s : State) (p : PortId) (enabled : Bool) (cls : PortClass) (limit : BitVec 16) :
    s.KeepsGuards (s.setPortItems p enabled cls limit) := by
  have hwritten : s.KeepsGuards (s.setPort p { s.port p with enabled := enabled, cls := cls, waitLimit := limit }) :=
    State.setPort_keepsGuards id
  rw [State.setPortItems]
  dsimp only
  split
  · exact hwritten.trans (State.portReset_keepsGuards _ p true)
  · exact hwritten

theorem State.latch_keepsGuards (s : State) (x : Snapshot) : s.KeepsGuards (s.latch x) := by
  rw [State.latch]
  split <;> exact .of_same rfl rfl rfl

/-! ### Counts and flight table move together -/

/-- A request is issued: its entry joins the flight table, and the lock it records counts it (R108, R142, R143). -/
theorem State.GuardLaw.issueHead {s : State} (h : s.GuardLaw) {u : LockUnit} (p : PortId) {q : Request} {guard : Option LockId}
    (hu : ∀ l, (u.lock l).guardFlight = (s.lockUnit.lock l).guardFlight + if guard = some l then 1 else 0)
    (hq : guard ≠ none → q.kind = .write) : ((s.setUnit u).issueHead p q guard).GuardLaw := by
  obtain ⟨hcounts, hwrites, hheads⟩ := h
  refine (State.advance_keepsGuards _ p _).guardLaw ⟨fun l => ?_, fun e he => ?_, fun r => ?_⟩
  · rw [List.countP_append, List.countP_singleton, State.setUnit_memPort, ← hcounts]
    simpa using hu l
  · rcases List.mem_append.1 he with he | he
    · exact hwrites e he
    · obtain rfl := List.mem_singleton.1 he
      exact hq
  · have hissued : s.KeepsGuards (s.setPort p ((s.port p).issued q)) := State.setPort_keepsGuards fun _ => .of_none _
    exact hissued.heads r (hheads r)

/-- An uncounted request is issued. -/
theorem State.GuardLaw.issueUncounted {s : State} (h : s.GuardLaw) (p : PortId) (q : Request) :
    (s.issueHead p q none).GuardLaw :=
  h.issueHead (u := s.lockUnit) p (fun _ => by simp) (absurd rfl)

/-- The increment claim raises one count (R108). -/
theorem LockUnit.countGuarded_guardFlight (u : LockUnit) (l k : LockId) :
    ((u.countGuarded l).lock k).guardFlight = (u.lock k).guardFlight + if some l = some k then 1 else 0 := by
  rw [LockUnit.countGuarded, LockUnit.lock_setLock]
  by_cases hk : k = l
  · subst hk; simp
  · simp [hk, Ne.symm hk]

/-- An increment claim for a write (R75, R143). -/
theorem State.GuardLaw.claimHead {s : State} (h : s.GuardLaw) (p : PortId) {q : Request} (hq : q.kind = .write) (l : LockId)
    (w : WindowId) (policy : WritePolicy) : (s.claimHead p q l w policy).GuardLaw := by
  rw [State.claimHead]
  split
  · exact h.issueHead p (s.lockUnit.countGuarded_guardFlight l) fun _ => hq
  · have hreported := (s.report_keepsGuards .lockUnit
      [guardFault .guardWrite p q.tag w q.addr l (s.lockUnit.lock l).generation]).guardLaw h
    dsimp only
    split
    · exact hreported.issueUncounted p q
    · exact (State.dropHead_keepsGuards _ p q).guardLaw hreported

/-- The completion of a counted write lowers one count (R77). -/
theorem LockUnit.completeGuarded_guardFlight (u : LockUnit) (l k : LockId) (e : FlightEntry) (failed : Bool) :
    ((u.completeGuarded l e failed).unit.lock k).guardFlight =
      (u.lock k).guardFlight - if some l = some k then 1 else 0 := by
  have huncounted : ((u.uncounted l e failed).lock k).guardFlight =
      (u.lock k).guardFlight - if some l = some k then 1 else 0 := by
    by_cases hk : k = l
    · subst hk
      simpa using (u.uncounted_lock k e failed).2
    · cases failed <;> simp [LockUnit.uncounted, LockUnit.failGuarded, LockUnit.markLoss, hk, Ne.symm hk]
  rw [u.completeGuarded_eq l e failed rfl, ← huncounted]
  dsimp only
  split
  · exact (LockUnit.settle_keepsService _ l k).1
  · rfl

/-- The oldest entry leaves the flight table, and the lock it records counts it no more (R77, R145). -/
theorem State.GuardLaw.dropEntry {s : State} (h : s.GuardLaw) {e : FlightEntry} {rest : List FlightEntry}
    (ht : s.memPort.table = e :: rest) {u : LockUnit}
    (hu : ∀ l, (u.lock l).guardFlight = (s.lockUnit.lock l).guardFlight - if e.guard = some l then 1 else 0) :
    (({ s with memPort := { s.memPort with table := rest } } : State).setUnit u).GuardLaw := by
  obtain ⟨hcounts, hwrites, hheads⟩ := h
  rw [ht] at hwrites
  refine ⟨fun l => ?_, fun x hx => hwrites x (List.mem_cons_of_mem e hx), hheads⟩
  have hcount := hcounts l
  rw [ht, List.countP_cons] at hcount
  rw [State.setUnit_lockUnit, hu, hcount]
  simp

/-- The completion of the oldest entry (R145 to R147). -/
theorem State.GuardLaw.complete {s : State} (h : s.GuardLaw) {e : FlightEntry} {rest : List FlightEntry}
    (ht : s.memPort.table = e :: rest) (result : MemResult) (data : List Byte) :
    (s.complete e rest result data).GuardLaw := by
  have ⟨_, hwrites, _⟩ := h
  have hwrite : e.guard ≠ none → e.kind = .write := hwrites e (by rw [ht]; exact List.mem_cons_self)
  have huncounted : e.guard = none → ({ s with memPort := { s.memPort with table := rest } } : State).GuardLaw := fun hg =>
    h.dropEntry ht (u := s.lockUnit) fun l => by simp [hg]
  rw [State.complete]
  dsimp only
  split
  · rename_i hkind
    have hnone : e.guard = none := by
      by_contra hg
      rw [hwrite hg] at hkind
      cases hkind
    exact (State.completeRead_keepsGuards _ e _ data).guardLaw (huncounted hnone)
  · rw [State.completeWrite]
    split
    · rename_i hg
      exact (State.completeAtPort_keepsGuards _ e).guardLaw ((State.report_keepsGuards _ _ _).guardLaw (huncounted hg))
    · rename_i l hg
      refine (State.completeAtPort_keepsGuards _ e).guardLaw ((State.setUnit_keepsGuards_applyLock _ _).guardLaw ?_)
      exact h.dropEntry ht fun k => by rw [hg]; exact LockUnit.completeGuarded_guardFlight _ l k e _

/-- At power-on values nothing is in flight and nothing waits (Table 9-2). -/
theorem State.powerOnValues_guardLaw (s : State) (low : Bool) (straps : BitVec 3) (session : Nat) :
    (s.powerOnValues low straps session).GuardLaw := by
  refine ⟨fun l => ?_, fun e he => (List.not_mem_nil he).elim, fun p l w k hc => ?_⟩
  · show (State.reset.lockUnit.lock l).guardFlight = 0
    simp [State.reset, LockUnit.lock, LockRecord.powerOn]
  · have hnone : (State.reset.port p).headClass = none := by simp [State.reset, State.port, PortRecord.powerOn]
    exact nomatch hnone.symm.trans hc

/-! ### Lock commands -/

/-- An UNDEFINED lock has no counted write in flight (R108). -/
theorem LockRecord.Fits.guardFlight_of_undefined {r : LockRecord} (h : r.Fits) (hs : r.state = .undefined) :
    r.guardFlight = 0 := by
  simp only [LockRecord.Fits, hs] at h
  obtain ⟨-, -, -, h0⟩ := h
  exact h0

/-- A lock that may leave service has no counted write in flight (R5 check 1). -/
theorem LockRecord.Fits.guardFlight_of_removable {r : LockRecord} (h : r.Fits) (hr : r.removable = true) :
    r.guardFlight = 0 := by
  rcases r.removable_iff.1 hr with hs | ⟨-, h0⟩
  · simp only [LockRecord.Fits, hs] at h
    obtain ⟨-, -, h0⟩ := h
    exact h0
  · exact h0

/-- A lock is written with its count kept. -/
theorem State.setLock_keepsGuards {s : State} {l : LockId} {r : LockRecord}
    (h : r.guardFlight = (s.lockUnit.lock l).guardFlight) : s.KeepsGuards (s.setUnit (s.lockUnit.setLock l r)) := by
  refine State.setUnit_keepsGuards fun k => ?_
  rw [LockUnit.lock_setLock]
  split
  · subst k
    exact h
  · rfl

/-- An event keeps the law when its effect does. -/
theorem guardLaw_of_running {s t : State} {k : State → State}
    (he : (.next (s.running k) : Host.Outcome State Fault Refusal) = .next t) (h : s.GuardLaw)
    (hk : s.GuardLaw → (k s).GuardLaw) : t.GuardLaw := by
  obtain rfl := Host.Outcome.next.inj he
  rw [State.running]
  split
  · exact h
  · exact hk h

/-- A command keeps the law when its effect does, at the lock unit as it stands. -/
theorem guardLaw_of_command {s t : State} {k : State → State}
    (he : (.next (s.command k) : Host.Outcome State Fault Refusal) = .next t) (h : s.GuardLaw)
    (hk : ∀ r : State, r.lockUnit = s.lockUnit → r.GuardLaw → (k r).GuardLaw) : t.GuardLaw := by
  obtain rfl := Host.Outcome.next.inj he
  rw [State.command]
  split
  · exact h
  · split
    · exact h
    · exact hk _ rfl h
    · exact hk _ rfl h

/-- DEFINE_LOCK (R4): a lock taken into service has no count to lose. -/
theorem execDefineLock_guardLaw {lock level : Byte} {lease : BitVec 16} {lp op : Byte} {s t : State} (hl : s.lockUnit.Law)
    (h : s.GuardLaw) (he : execDefineLock lock level lease lp op s = .next t) : t.GuardLaw := by
  refine guardLaw_of_command he h fun r hu hr => ?_
  split
  · rename_i l q _ _
    split
    · rename_i hs
      obtain ⟨hfits, -⟩ := (LockRecord.law_iff _).1 (hl.record l)
      rw [← hu] at hfits
      exact (State.setLock_keepsGuards (hfits.guardFlight_of_undefined hs).symm).guardLaw hr
    · exact (State.setLock_keepsGuards (r := { r.lockUnit.lock l with params := some q }) rfl).guardLaw hr
    · exact hr
    · exact hr
    · exact hr
    · exact hr
  · exact hr

/-- UNDEFINE_LOCK (R5): check 1 asks for a count of 0. -/
theorem execUndefineLock_guardLaw {lock : Byte} {s t : State} (hl : s.lockUnit.Law) (h : s.GuardLaw)
    (he : execUndefineLock lock s = .next t) : t.GuardLaw := by
  refine guardLaw_of_command he h fun r hu hr => ?_
  split
  · exact hr
  · rename_i l _
    split
    · exact hr
    · rename_i hremovable
      obtain ⟨hfits, -⟩ := (LockRecord.law_iff _).1 (hl.record l)
      rw [← hu] at hfits
      split
      · exact hr
      · split
        · exact hr
        · exact (State.setLock_keepsGuards (hfits.guardFlight_of_removable (by simpa using hremovable)).symm).guardLaw hr

/-- FORCE_RELEASE (R78). -/
theorem execForceRelease_guardLaw {lock : Byte} {s t : State} (h : s.GuardLaw)
    (he : execForceRelease lock s = .next t) : t.GuardLaw := by
  have hrevoke : ∀ (r : State) l, r.GuardLaw → (r.forceRevoke l).GuardLaw := fun r l hr =>
    (State.applyLock_keepsGuards (r.lockUnit.revoke_keepsService l)).guardLaw hr
  refine guardLaw_of_command he h fun r _ hr => ?_
  split
  · exact hr
  · rename_i l _
    split
    · exact hrevoke r l hr
    · exact hrevoke r l hr
    · exact hr
    · exact hr
    · exact hr
    · exact hr

/-- REPAIR_LOCK (R160). -/
theorem execRepairLock_guardLaw {lock : Byte} {s t : State} (h : s.GuardLaw)
    (he : execRepairLock lock s = .next t) : t.GuardLaw := by
  refine guardLaw_of_command he h fun r _ hr => ?_
  split
  · exact hr
  · rename_i l _
    split
    · exact hr
    · split
      · exact hr
      · exact (State.setLock_keepsGuards (r := { (r.lockUnit.lock l).stopLease with state := .free }) rfl).guardLaw hr

/-! ### Every command -/

/-- A chosen guarded head is a write (R97, R143). -/
theorem State.GuardLaw.kind_of_chosenHead {s : State} (h : s.GuardLaw) {p : PortId} {q : Request} {l : LockId} {w : WindowId}
    {k : WritePolicy} (hc : s.chosenHead = some (p, q, .guardAuthorized l w k)) : q.kind = .write := by
  rw [State.chosenHead] at hc
  split at hc
  · cases hc
  · cases hc
  · split at hc
    · rename_i q' c hq hclass
      simp only [Option.some.injEq, Prod.mk.injEq] at hc
      obtain ⟨rfl, rfl, rfl⟩ := hc
      obtain ⟨-, -, hheads⟩ := h
      obtain ⟨x, hx, hk⟩ := hheads _ l w k hclass
      obtain rfl : q' = x := Option.some.inj (hq.symm.trans hx)
      exact hk
    · cases hc

/-- Every command keeps the law of guard-flight counts. -/
theorem exec_guardLaw {c : Instr} {s t : State} (hl : s.lockUnit.Law) (h : s.GuardLaw) (he : exec c s = .next t) :
    t.GuardLaw := by
  cases c with
  | powerOn _ _ => obtain rfl := Host.Outcome.next.inj he; exact s.powerOnValues_guardLaw _ _ _
  | resetAssert _ => obtain rfl := Host.Outcome.next.inj he; exact s.powerOnValues_guardLaw _ _ _
  | resetRelease straps =>
    have he : execResetRelease straps s = .next t := he
    rw [execResetRelease] at he
    split at he
    · obtain rfl := Host.Outcome.next.inj he; exact s.powerOnValues_guardLaw _ _ _
    · obtain rfl := Host.Outcome.next.inj he; exact h
  | openFrame p => exact guardLaw_of_running he h (s.takeOpen_keepsGuards p).guardLaw
  | closeFrame p => exact guardLaw_of_running he h (s.takeClose_keepsGuards p).guardLaw
  | request p kind tag size addr data =>
    refine guardLaw_of_running he h (State.KeepsGuards.guardLaw ?_)
    split
    · exact s.takeRequest_keepsGuards p kind tag size addr data
    · exact s.takeBadFrame_keepsGuards p
  | badFrame p => exact guardLaw_of_running he h (s.takeBadFrame_keepsGuards p).guardLaw
  | linkSilence p => exact guardLaw_of_running he h (s.takeSilence_keepsGuards p).guardLaw
  | frameSent p => exact guardLaw_of_running he h (s.sent_keepsGuards p).guardLaw
  | acquireExclusive p => exact guardLaw_of_running he h (s.takeOp_keepsGuards p .acquireExclusive).guardLaw
  | acquireShared p => exact guardLaw_of_running he h (s.takeOp_keepsGuards p .acquireShared).guardLaw
  | tryExclusive p => exact guardLaw_of_running he h (s.takeOp_keepsGuards p .tryExclusive).guardLaw
  | tryShared p => exact guardLaw_of_running he h (s.takeOp_keepsGuards p .tryShared).guardLaw
  | inspect p => exact guardLaw_of_running he h (s.takeOp_keepsGuards p .inspect).guardLaw
  | release p => exact guardLaw_of_running he h (s.takeOp_keepsGuards p .release).guardLaw
  | releaseLatest p => exact guardLaw_of_running he h (s.takeOp_keepsGuards p .releaseLatest).guardLaw
  | withdraw p => exact guardLaw_of_running he h (s.takeOp_keepsGuards p .withdraw).guardLaw
  | misuseAccess p => exact guardLaw_of_running he h (s.takeOp_keepsGuards p .misuse).guardLaw
  | lockClockTick => exact guardLaw_of_running he h id
  | tickClaim l =>
    refine guardLaw_of_running he h (State.KeepsGuards.guardLaw ?_)
    split
    · exact .refl s
    · exact .trans (State.setUnit_keepsGuards fun k => (s.lockUnit.ticked_keepsService l k).1) (.of_same rfl rfl rfl)
  | leaseExpiry l =>
    exact guardLaw_of_running he h (State.applyLock_keepsGuards (s.lockUnit.leaseExpiry_keepsService l)).guardLaw
  | waitTimeout l p =>
    exact guardLaw_of_running he h (State.applyLock_keepsGuards (s.lockUnit.timeout_keepsService l p)).guardLaw
  | issueDecision =>
    refine guardLaw_of_running he h fun h => ?_
    split <;> exact h
  | issue =>
    refine guardLaw_of_running he h fun h => ?_
    split
    · exact h.issueUncounted _ _
    · exact h.issueUncounted _ _
    · exact h
    · exact h
    · exact h
  | incrementClaim =>
    refine guardLaw_of_running he h fun h => ?_
    split
    · rename_i hc
      exact h.claimHead _ (h.kind_of_chosenHead hc) _ _ _
    · exact h
    · exact h
    · exact h
    · exact h
  | issueSlotFreed =>
    refine guardLaw_of_running he h fun h => ?_
    split <;> exact h
  | memCompletion session result data =>
    refine guardLaw_of_running he h fun h => ?_
    split
    · split
      · exact h
      · rename_i ht
        exact h.complete ht result data
    · exact h
  | portGoneClaim p =>
    refine guardLaw_of_running he h (State.KeepsGuards.guardLaw ?_)
    split
    · exact s.takeClaim_keepsGuards p
    · exact .refl s
  | faultReport src =>
    refine guardLaw_of_running he h fun h => ?_
    split <;> exact h
  | badCommandFrame bytes =>
    refine guardLaw_of_command he h fun r _ hr => ?_
    split <;> exact hr
  | commandWriteNak =>
    have he : execCommandWriteNak s = .next t := he
    rw [execCommandWriteNak] at he
    split at he
    · obtain rfl := Host.Outcome.next.inj he; exact h
    · split at he <;> (obtain rfl := Host.Outcome.next.inj he; exact h)
  | setClock period =>
    refine guardLaw_of_command he h fun r _ hr => ?_
    split <;> exact hr
  | setPort port enable cls limit =>
    refine guardLaw_of_command he h fun r _ hr => ?_
    split
    · exact (r.setPortItems_keepsGuards _ _ _ limit).guardLaw hr
    · exact hr
  | setWeight k =>
    refine guardLaw_of_command he h fun r _ hr => ?_
    split <;> exact hr
  | defineWindow window base pages kind lockRef wp rp =>
    refine guardLaw_of_command he h fun r _ hr => ?_
    split
    · split <;> exact hr
    · exact hr
  | enableWindow window =>
    refine guardLaw_of_command he h fun r _ hr => ?_
    split
    · exact hr
    · split
      · exact hr
      · exact hr
      · split
        · exact hr
        · split <;> exact hr
  | disableWindow window =>
    refine guardLaw_of_command he h fun r _ hr => ?_
    split
    · exact hr
    · split
      · exact hr
      · exact hr
      · split <;> exact hr
  | readWindow window =>
    refine guardLaw_of_command he h fun r _ hr => ?_
    split <;> exact hr
  | defineLock lock level lease lp op => exact execDefineLock_guardLaw hl h he
  | undefineLock lock => exact execUndefineLock_guardLaw hl h he
  | forceRelease lock => exact execForceRelease_guardLaw h he
  | repairLock lock => exact execRepairLock_guardLaw h he
  | resetPort port =>
    refine guardLaw_of_command he h fun r _ hr => ?_
    split
    · exact hr
    · rename_i p _
      split
      · exact hr
      · exact (r.portReset_keepsGuards p true).guardLaw hr
      · exact hr
  | snapshotLock lock =>
    refine guardLaw_of_command he h fun r _ hr => ?_
    split
    · exact hr
    · exact (r.latch_keepsGuards _).guardLaw hr
  | snapshotPort port =>
    refine guardLaw_of_command he h fun r _ hr => ?_
    split
    · exact hr
    · exact (r.latch_keepsGuards _).guardLaw hr
  | readSnapshot =>
    refine guardLaw_of_command he h fun r _ hr => ?_
    split <;> exact hr
  | readFault =>
    refine guardLaw_of_command he h fun r _ hr => ?_
    split <;> exact hr
  | readAlert => exact guardLaw_of_command he h fun _ _ hr => hr
  | setAlertMask classes => exact guardLaw_of_command he h fun _ _ hr => hr
  | clearAlert classes => exact guardLaw_of_command he h fun _ _ hr => hr
  | readStatus => exact guardLaw_of_command he h fun _ _ hr => hr

end Sys2Proof.Machine

open Sys2Proof Sys2Proof.Machine

/-- Settles O60: a count moves only with the flight table, and the lock's own law gives 0 where a lock record is written anew. -/
theorem guardLawKept : Obligations.GuardLawKept := by
  intro s t hl h hstep
  rw [step] at hstep
  split at hstep
  · obtain rfl := Host.Outcome.next.inj hstep
    exact h
  · rename_i c rest _
    exact exec_guardLaw (s := { s with pending := rest }) hl h hstep

end

section
/-! The decision of the issue arbiter (R139 to R141): which port a class's pointer reaches first, and the choice between the
classes by the fore-grant count. -/

namespace Sys2Proof.Machine

/-! ### The port a pointer reaches first -/

theorem mem_ringFrom (start p : PortId) : p ∈ ringFrom start :=
  List.mem_map.2 ⟨p - start, List.mem_finRange _, add_sub_cancel _ _⟩

/-- A search along the ring is a search over the distances from its pointer. -/
theorem find?_ringFrom (start : PortId) (P : PortId → Bool) :
    (ringFrom start).find? P = (Fin.find? fun k => P (start + k)).map (start + ·) := by
  rw [ringFrom, List.find?_map, Fin.find?_eq_find?_finRange]
  rfl

/-- The model's test is R139's condition. -/
theorem State.eligibleIn_iff (s : State) (c : PortClass) (p : PortId) : s.eligibleIn c p = true ↔ s.isEligible c p := by
  simp [State.eligibleIn, State.eligible, State.isEligible, Option.any_eq_true, Config.flightCapacity]

theorem State.pick_eq_none_iff {s : State} {c : PortClass} {start : PortId} :
    s.pick c start = none ↔ ∀ p, ¬s.isEligible c p := by
  simp only [State.pick, List.find?_eq_none, mem_ringFrom, s.eligibleIn_iff, true_imp_iff]

theorem State.pick_eq_some_iff {s : State} {c : PortClass} {start p : PortId} :
    s.pick c start = some p ↔ FirstFrom start (s.isEligible c) p := by
  simp only [State.pick, find?_ringFrom, Option.map_eq_some_iff, Fin.find?_eq_some_iff, FirstFrom, ← s.eligibleIn_iff,
    Bool.not_eq_true]
  constructor
  · rintro ⟨k, ⟨hk, hbefore⟩, rfl⟩
    exact ⟨k, rfl, hk, hbefore⟩
  · rintro ⟨k, rfl, hk, hbefore⟩
    exact ⟨k, ⟨hk, hbefore⟩, rfl⟩

/-- Wherever the pointer stands, an eligible port of the class is reached. -/
theorem State.exists_pick_of_isEligible {s : State} {c : PortClass} (start : PortId) (h : ∃ p, s.isEligible c p) :
    ∃ p, s.pick c start = some p := by
  obtain ⟨p, hp⟩ := h
  exact Option.ne_none_iff_exists'.1 fun hnone => State.pick_eq_none_iff.1 hnone p hp

/-! ### The choice between the classes -/

/-- A BACK port is chosen at K fore-grants, or with no FORE port eligible (R141). -/
theorem Arbiter.decision_back {a : Arbiter} {fore : Option PortId} {b : PortId}
    (h : a.weight ≤ a.foreGrants ∨ fore = none) : a.decision fore (some b) = a.chooseBack b := by
  cases fore with
  | none => rfl
  | some f => exact if_pos (h.resolve_right (Option.some_ne_none f))

/-- Below K a FORE port goes before an eligible BACK port, and the grant is counted (R141). -/
theorem Arbiter.decision_fore_of_lt {a : Arbiter} {f b : PortId} (h : a.foreGrants < a.weight) :
    a.decision (some f) (some b) = a.chooseFore f (a.foreGrants + 1) :=
  if_neg (Nat.not_le.2 h)

/-! ### The command -/

section
variable {s : State}

theorem exec_issueDecision_of_held (hlow : s.resetLow = false) (h : s.arbiter.slot ≠ .free) :
    exec .issueDecision s = .next s :=
  congrArg Host.Outcome.next ((s.running_of_high _ hlow).trans (if_neg h))

/-- With the slot free the two picks decide. -/
theorem exec_issueDecision_of_free (hlow : s.resetLow = false) (h : s.arbiter.slot = .free) {fore back : Option PortId}
    (hf : s.pick .fore s.arbiter.fore = fore) (hb : s.pick .back s.arbiter.back = back) :
    exec .issueDecision s = .next { s with arbiter := s.arbiter.decision fore back } := by
  subst hf hb
  exact congrArg Host.Outcome.next ((s.running_of_high _ hlow).trans (if_pos h))

end

end Sys2Proof.Machine

open Sys2Proof Sys2Proof.Machine

/-- Settles O34: the picks of the two classes are the ports first from their pointers, and the decision reads only these. -/
theorem arbiterDecision : Obligations.ArbiterDecision := by
  intro s hlow fore back a
  refine ⟨fun h => ?_, fun hfree => ⟨fun b hb h => ?_, fun f hf hback hlt => ?_, fun f hf hback => ?_⟩⟩
  · by_cases hslot : a.slot = .free
    · obtain ⟨hfore, hback⟩ := h.resolve_left (not_not_intro hslot)
      exact exec_issueDecision_of_free hlow hslot (State.pick_eq_none_iff.2 hfore) (State.pick_eq_none_iff.2 hback)
    · exact exec_issueDecision_of_held hlow hslot
  · rw [exec_issueDecision_of_free hlow hfree rfl (State.pick_eq_some_iff.2 hb),
      Arbiter.decision_back (h.imp_right State.pick_eq_none_iff.2)]
    rfl
  · obtain ⟨b, hb⟩ := State.exists_pick_of_isEligible a.back hback
    rw [exec_issueDecision_of_free hlow hfree (State.pick_eq_some_iff.2 hf) hb, Arbiter.decision_fore_of_lt hlt]
    rfl
  · exact exec_issueDecision_of_free hlow hfree (State.pick_eq_some_iff.2 hf) (State.pick_eq_none_iff.2 hback)

end

section
/-! The state after reset (Table 9-2): what each read of it gives, the laws there, and the commands that restore it (R161,
R173). -/

namespace Sys2Proof.Machine

/-! ### Reads of the state after reset -/

@[simp] theorem State.reset_lock (l : LockId) : State.reset.lockUnit.lock l = LockRecord.powerOn := by
  simp [LockUnit.lock, State.reset]

@[simp] theorem State.reset_held (p : PortId) : State.reset.lockUnit.held p = [] := by
  simp [LockUnit.held, State.reset]

@[simp] theorem State.reset_wait (p : PortId) : State.reset.lockUnit.wait p = none := by
  simp [LockUnit.wait, State.reset]

@[simp] theorem State.reset_window (w : WindowId) : State.reset.window w = .undefined := by
  simp [State.window, State.reset]

@[simp] theorem State.reset_port (p : PortId) : State.reset.port p = PortRecord.powerOn := by
  simp [State.port, State.reset]

@[simp] theorem State.reset_table : State.reset.memPort.table = [] := rfl

/-- Nothing is unanswered, so no tag has a place (R126). -/
@[simp] theorem State.reset_tagPlaces (p : PortId) : State.reset.tagPlaces p = [] := by
  simp [State.tagPlaces, PortRecord.tagPlaces, PortRecord.handedTags, State.flightTags, PortRecord.powerOn]

/-! ### The laws after reset -/

theorem State.FlightLaw.atReset : State.reset.FlightLaw :=
  ⟨Nat.zero_le _, fun _ _ => by simp, fun p => by simp [PortRecord.powerOn], fun p => by simp [PortRecord.powerOn],
    by decide, by decide, by decide⟩

/-- No class is pending, so ALERT# is not asserted (R171). -/
theorem State.FaultLaw.atReset : State.reset.FaultLaw := by
  refine ⟨Nat.zero_le _, fun h => ?_, fun ⟨k, hk, _⟩ => ?_⟩
  · cases h
  · have hnone : State.reset.faultUnit.pendingClasses[k] = false := BitVec.getElem_zero k.isLt
    exact absurd (hnone.symm.trans hk) Bool.false_ne_true

theorem PortRecord.Law.powerOn : PortRecord.powerOn.Law :=
  ⟨Nat.zero_le _, by decide, by decide, fun _ => rfl, by decide, fun h => absurd rfl h⟩

/-- Every port is OFFLINE with nothing in flight, no hold entry and no pending wait (R120, R153). -/
theorem State.SessionLaw.atReset (p : PortId) : State.reset.SessionLaw p := by
  simp [State.SessionLaw, PortRecord.powerOn]

/-- No tag is outstanding, and no queue or send list holds one (R126). -/
theorem State.TagLaw.atReset (p : PortId) : State.reset.TagLaw p := by
  simp [State.TagLaw, PortRecord.powerOn]

/-! ### The commands that reset the part -/

/-- Every block is at its value of Table 9-2, whatever the state before (R161). -/
theorem State.powerOnValues_holds (s : State) (low : Bool) (straps : BitVec 3) (session : Nat) :
    (s.powerOnValues low straps session).holdsPowerOnValues :=
  ⟨rfl, rfl, rfl, rfl, rfl, rfl, rfl, rfl, rfl, rfl, rfl⟩

theorem exec_resetRelease_of_low (straps : BitVec 3) {s : State} (hlow : s.resetLow = true) :
    exec (.resetRelease straps) s = .next (s.powerOnValues false straps (s.memPort.session + 1)) :=
  if_pos hlow

end Sys2Proof.Machine

open Sys2Proof Sys2Proof.Machine

/-- Settles O3: each row of Table 9-2 is a read of the state after reset. -/
theorem resetStateIsTable92 : Obligations.ResetStateIsTable92 :=
  ⟨rfl, State.reset_lock, fun p => ⟨State.reset_held p, State.reset_wait p⟩, rfl, rfl, State.reset_window,
    fun p => by rw [State.reset_port]; exact ⟨rfl, rfl, rfl, rfl, rfl, rfl, rfl, rfl, rfl, rfl, rfl⟩,
    rfl, rfl, rfl, rfl, rfl, rfl, rfl⟩

/-- Settles O4: all three commands write the power-on values, with the straps they carry. -/
theorem resetCommandsRestorePowerOn : Obligations.ResetCommandsRestorePowerOn := by
  intro straps s
  refine ⟨fun high => ⟨_, rfl, s.powerOnValues_holds _ _ _, rfl, rfl, rfl⟩, ⟨_, rfl, s.powerOnValues_holds _ _ _, rfl⟩,
    fun hlow => ⟨_, exec_resetRelease_of_low straps hlow, s.powerOnValues_holds _ _ _, rfl, rfl, rfl⟩⟩

/-- Settles O54: no lock is defined, no window mapped, no port ONLINE and nothing in flight, so each law asks for nothing more. -/
theorem lawsHoldAtReset : Obligations.LawsHoldAtReset :=
  ⟨.atReset, .of_undefined State.reset_window, .atReset,
    fun p => ⟨by rw [State.reset_port]; exact .powerOn, .atReset p, .atReset p⟩, .atReset,
    State.reset.powerOnValues_guardLaw false 0 0⟩

end

section
/-! How the part takes each command: with RESET# low (R161, R173), while the supervisor port is busy (R175), and the
supervisor's transactions (R173 to R176) with RESET_PORT (R151, R181). -/

namespace Sys2Proof.Machine

/-! ### The four ways a command is taken -/

/-- A command is POWER_ON or an edge of RESET#, an event of a block, a write that the supervisor port takes, or the write that
is refused: an event acts through `State.running` and a write through `State.command`, with an effect of its own. -/
inductive TakenAs (c : Instr) : Prop
  | reset (hreset : isResetCommand c = true) (hwrite : isSupervisorWrite c = false)
  | event (hwrite : isSupervisorWrite c = false) (k : State → State) (hexec : ∀ s, exec c s = .next (s.running k))
  | write (hwrite : isSupervisorWrite c = true) (k : State → State) (hexec : ∀ s, exec c s = .next (s.command k))
  | refused (hnak : c = .commandWriteNak)

theorem exec_takenAs (c : Instr) : TakenAs c := by
  cases c with
  | powerOn | resetAssert | resetRelease => exact .reset rfl rfl
  | openFrame | closeFrame | request | badFrame | linkSilence | frameSent => exact .event rfl _ fun _ => rfl
  | acquireExclusive | acquireShared | tryExclusive | tryShared | inspect | release | releaseLatest | withdraw
  | misuseAccess => exact .event rfl _ fun _ => rfl
  | lockClockTick | tickClaim | leaseExpiry | waitTimeout => exact .event rfl _ fun _ => rfl
  | issueDecision | issue | incrementClaim | issueSlotFreed | memCompletion => exact .event rfl _ fun _ => rfl
  | portGoneClaim | faultReport => exact .event rfl _ fun _ => rfl
  | commandWriteNak => exact .refused rfl
  | badCommandFrame => exact .write rfl _ fun _ => rfl
  | setClock | setPort | setWeight | resetPort | readStatus => exact .write rfl _ fun _ => rfl
  | defineWindow | enableWindow | disableWindow | readWindow => exact .write rfl _ fun _ => rfl
  | defineLock | undefineLock | forceRelease | repairLock => exact .write rfl _ fun _ => rfl
  | snapshotLock | snapshotPort | readSnapshot => exact .write rfl _ fun _ => rfl
  | readFault | readAlert | setAlertMask | clearAlert => exact .write rfl _ fun _ => rfl

theorem exec_commandWriteNak_of_low {s : State} (hlow : s.resetLow = true) :
    exec .commandWriteNak s = .next (s.acknowledge false) :=
  if_pos hlow

theorem exec_commandWriteNak_of_inProgress {s : State} {p : PortId} (h : s.supervisor.command = .inProgress p) :
    exec .commandWriteNak s = .next (s.acknowledge false) := by
  show execCommandWriteNak s = _
  rw [execCommandWriteNak, h]
  exact ite_self _

/-! ### Malformed writes and transactions -/

theorem exec_badCommandFrame_of_bad {bytes : List Byte} {s : State} (hr : s.ready) (hb : bytes ≠ [])
    (hform : commandFormGood bytes = false) : exec (.badCommandFrame bytes) s = .next (s.answered .badParam []) := by
  have hbad : ¬(bytes.isEmpty || commandFormGood bytes) = true := by simp [hb, hform]
  exact congrArg Host.Outcome.next ((s.command_of_ready _ hr).trans (if_neg hbad))

theorem State.answersAddress_iff (s : State) (address : BitVec 7) :
    s.answersAddress address = true ↔ s.resetLow = false ∧ address = 0x58#7 + s.supervisor.straps.setWidth 7 := by
  simp [State.answersAddress, State.i2cAddress]

theorem State.not_answersAddress_iff (s : State) (address : BitVec 7) :
    ¬s.answersAddress address = true ↔ s.resetLow = true ∨ address ≠ 0x58#7 + s.supervisor.straps.setWidth 7 := by
  rw [s.answersAddress_iff, not_and_or, Bool.not_eq_false]

/-- A read gives the result frame as if 0x00 bytes stood behind it (R176). -/
theorem State.readResult_of_answered {s : State} {address : BitVec 7} (n : Nat) (h : s.answersAddress address = true) :
    s.readResult address n = some ((s.supervisor.result.bytes ++ List.replicate n 0).take n) := by
  rw [State.readResult, if_pos h, List.take_append, List.take_replicate, Nat.min_eq_left (Nat.sub_le _ _)]

theorem State.readResult_of_unanswered {s : State} {address : BitVec 7} (n : Nat) (h : ¬s.answersAddress address = true) :
    s.readResult address n = none :=
  if_neg h

theorem State.writtenCommand_of_answered {s : State} {address : BitVec 7} {bytes : List Byte}
    (h : s.answersAddress address = true) (hb : bytes ≠ []) : s.writtenCommand address bytes = some (commandFrame bytes) :=
  if_pos (by simp [h, hb])

theorem State.writtenCommand_of_unanswered {s : State} {address : BitVec 7} {bytes : List Byte}
    (h : ¬s.answersAddress address = true ∨ bytes = []) : s.writtenCommand address bytes = none := by
  refine if_neg fun hc => ?_
  obtain ⟨haddr, hbytes⟩ := (Bool.and_eq_true _ _).mp hc
  rcases h with h | rfl
  · exact h haddr
  · cases hbytes

/-! ### RESET_PORT -/

section
variable {s : State} {port : Byte}

theorem execResetPort_badParam (hr : s.ready) (hp : portOf port = none) :
    execResetPort port s = .next (s.answered .badParam []) := by
  rw [execResetPort, s.command_of_ready _ hr, hp]
  rfl

/-- An OFFLINE port needs no reset (R181). -/
theorem execResetPort_of_offline (hr : s.ready) {p : PortId} (hp : portOf port = some p) (hl : (s.port p).link = .offline) :
    execResetPort port s = .next (s.answered .done []) := by
  simp only [execResetPort, s.command_of_ready _ hr, hp, State.acknowledge_port, hl]
  rfl

/-- At an ONLINE port the reset begins, and the command waits for its end (R151, R181). -/
theorem execResetPort_of_online (hr : s.ready) {p : PortId} (hp : portOf port = some p) (hl : (s.port p).link = .online) :
    execResetPort port s = .next (((s.acknowledge true).portReset p true).startResetCommand p) := by
  simp only [execResetPort, s.command_of_ready _ hr, hp, State.acknowledge_port, hl]

/-- A reset that runs already is waited for (R151, R181). -/
theorem execResetPort_of_resetting (hr : s.ready) {p : PortId} (hp : portOf port = some p)
    (hl : (s.port p).link = .resetting) :
    execResetPort port s = .next ((s.acknowledge true).startResetCommand p) := by
  simp only [execResetPort, s.command_of_ready _ hr, hp, State.acknowledge_port, hl]

end

end Sys2Proof.Machine

open Sys2Proof Sys2Proof.Machine

/-- Settles O5: an event finds the part not running, and a write is not acknowledged. -/
theorem resetLowIgnoresEverything : Obligations.ResetLowIgnoresEverything := by
  intro c s hlow hnot
  cases exec_takenAs c with
  | reset hreset _ => exact absurd (hnot.symm.trans hreset) Bool.false_ne_true
  | event hwrite k hexec =>
    rw [hexec, s.running_of_low k hlow, hwrite]
    rfl
  | write hwrite k hexec =>
    rw [hexec, s.command_of_low k hlow, hwrite]
    rfl
  | refused hnak =>
    subst hnak
    exact exec_commandWriteNak_of_low hlow

/-- Settles O49: the link state decides; the reset itself is that of `State.portReset`. -/
theorem resetPortByLinkState : Obligations.ResetPortByLinkState := by
  intro port s hr c
  refine ⟨fun hp => execResetPort_badParam hr (portOf_eq_none.2 hp), ?_⟩
  intro p hp started
  have hport := portOf_eq_some.2 hp
  refine ⟨execResetPort_of_offline hr hport, fun hl => ?_, execResetPort_of_resetting hr hport⟩
  obtain ⟨hreset, hreports, -⟩ := s.portReset_spec p true
  exact ⟨_, execResetPort_of_online hr hport hl, hreset, hreports, rfl⟩

/-- Settles O51: in IN_PROGRESS no write passes `State.command`, and a transaction is answered at the part's own address only. -/
theorem refusedCommandWrites : Obligations.RefusedCommandWrites := by
  refine ⟨fun bytes s hr hb hform => exec_badCommandFrame_of_bad hr hb hform, fun c p s hwrite hbusy => ?_,
    fun address n s => ?_, fun address bytes s => ?_, rfl, rfl, rfl, rfl, rfl, rfl, rfl, rfl, rfl, rfl, rfl, rfl⟩
  · cases exec_takenAs c with
    | reset _ hno => exact absurd (hno.symm.trans hwrite) Bool.false_ne_true
    | event hno _ _ => exact absurd (hno.symm.trans hwrite) Bool.false_ne_true
    | write _ k hexec => rw [hexec, s.command_of_inProgress k hbusy]
    | refused hnak =>
      subst hnak
      exact exec_commandWriteNak_of_inProgress hbusy
  · exact ⟨fun h => State.readResult_of_unanswered n ((s.not_answersAddress_iff address).2 h),
      fun hhigh haddr => State.readResult_of_answered n ((s.answersAddress_iff address).2 ⟨hhigh, haddr⟩)⟩
  · exact ⟨fun h => State.writtenCommand_of_unanswered ((or_assoc.2 h).imp_left (s.not_answersAddress_iff address).2),
      fun hhigh haddr hb => State.writtenCommand_of_answered ((s.answersAddress_iff address).2 ⟨hhigh, haddr⟩) hb⟩

end

section
/-! The hold entries of a port-gone claim (R154 step 2, R155 to R158): the holding that ends, and the orphan by its policy. -/

namespace Sys2Proof.Machine

/-! ### Waits that end -/

/-- Each waiter's port has no pending wait left, and no other port is reached (R31, R42). -/
theorem LockUnit.clearWaits_wait (x : PortId) (ws : List Waiter) : ∀ u : LockUnit,
    (ws.foldl (fun u w => u.setWait w.port none) u).wait x = if ws.any (fun w => w.port == x) then none else u.wait x := by
  induction ws with
  | nil => exact fun _ => rfl
  | cons w ws ih =>
    intro u
    rw [List.foldl_cons, ih, LockUnit.wait_setWait]
    by_cases hx : x = w.port
    · simp [hx]
    · simp [hx, Ne.symm hx]

theorem LockUnit.clearWaits_holds (ws : List Waiter) : ∀ u : LockUnit,
    (ws.foldl (fun u w => u.setWait w.port none) u).holds = u.holds := by
  induction ws with
  | nil => exact fun _ => rfl
  | cons w ws ih => exact fun u => ih (u.setWait w.port none)

/-! ### One entry of the claim -/

/-- The ORPHAN record of an entry (R156). -/
def orphanFault (p : PortId) (e : HoldEntry) : FaultInfo :=
  { cls := .orphan, port := some p, lock := some e.lock, generation := some e.generation }

section
variable {u : LockUnit} {p : PortId} {e : HoldEntry}

theorem LockUnit.claimEntry_of_revoked (hr : e.revoked = true) : u.claimEntry p e = { unit := u } := by
  rw [LockUnit.claimEntry, if_pos hr]

theorem LockUnit.claimEntry_of_shared (hr : e.revoked = false) (hm : e.mode = .shared) : u.claimEntry p e =
    { unit := (u.leaveShared e.lock p).1, answers := (u.leaveShared e.lock p).2 } := by
  rw [LockUnit.claimEntry, if_neg (by simp [hr]), hm]

theorem LockUnit.claimEntry_of_exclusive (hr : e.revoked = false) (hm : e.mode = .exclusive) : u.claimEntry p e =
    { unit := (u.orphan e.lock).1, answers := (u.orphan e.lock).2, faults := [orphanFault p e] } := by
  rw [LockUnit.claimEntry, if_neg (by simp [hr]), hm]
  rfl

end

/-! ### The orphan policy -/

section
variable {u : LockUnit} {l : LockId} {q : LockParams}

theorem LockUnit.orphan_of_release (hq : (u.lock l).params = some q) (hp : q.orphanPolicy = .release) :
    u.orphan l = (u.emptyHolders l true).settle l := by
  rw [LockUnit.orphan, hq, Option.map_some, hp]

theorem LockUnit.orphan_of_break (hq : (u.lock l).params = some q) (hp : q.orphanPolicy = .breakLock) :
    u.orphan l = (u.emptyHolders l true).breakLock l := by
  rw [LockUnit.orphan, hq, Option.map_some, hp]

end

section
variable (u : LockUnit) (l : LockId)

theorem LockUnit.breakLock_lock_self : (u.breakLock l).1.lock l = { u.lock l with state := .broken, waiters := [] } := by
  rw [LockUnit.breakLock, LockUnit.clearWaits_lock, LockUnit.lock_setLock_self]

theorem LockUnit.breakLock_lock_ne {k : LockId} (hk : k ≠ l) : (u.breakLock l).1.lock k = u.lock k := by
  rw [LockUnit.breakLock, LockUnit.clearWaits_lock, LockUnit.lock_setLock_ne _ _ hk]

theorem LockUnit.breakLock_holds : (u.breakLock l).1.holds = u.holds :=
  LockUnit.clearWaits_holds _ _

theorem LockUnit.breakLock_wait (x : PortId) : (u.breakLock l).1.wait x =
    if (u.lock l).waiters.any (fun w => w.port == x) then none else u.wait x :=
  LockUnit.clearWaits_wait x _ _

end

end Sys2Proof.Machine

open Sys2Proof Sys2Proof.Machine

/-- Settles O40: entry by entry, a SHARED one leaves the holder set and an EXCLUSIVE one empties it under its orphan policy. -/
theorem orphansByPolicy : Obligations.OrphansByPolicy := by
  intro p e u r emptied orphan
  refine ⟨rfl, fun es => rfl, LockUnit.claimEntry_of_revoked, fun hr hm => ?_, fun q hr hm hq => ?_⟩
  · rw [LockUnit.claimEntry_of_shared hr hm]
    refine ⟨fun hstay => ?_, fun hlast => ?_⟩
    · rw [LockUnit.leaveShared_of_staying hstay]
    · rw [LockUnit.leaveShared_of_last hlast]
      rfl
  · rw [LockUnit.claimEntry_of_exclusive hr hm]
    refine ⟨fun hrelease => ?_, fun hbreak => ?_⟩
    · rw [LockUnit.orphan_of_release hq hrelease]
      rfl
    · rw [LockUnit.orphan_of_break hq hbreak]
      have hempty : (u.emptyHolders e.lock true).lock e.lock = { emptied with taint := true } :=
        LockUnit.lock_setLock_self _ _ _
      refine ⟨?_, fun l hl => ?_, LockUnit.breakLock_holds _ _, fun x => ?_, ?_, rfl⟩
      · rw [LockUnit.breakLock_lock_self, hempty]
      · rw [LockUnit.breakLock_lock_ne _ _ hl]
        exact LockUnit.lock_setLock_ne _ _ hl
      · rw [LockUnit.breakLock_wait, hempty]
        rfl
      · simp only [LockUnit.breakLock, LockUnit.wordFor, hempty]
        rfl

end

section
/-! The fault unit (R163 to R171): what a report leaves in log and pending set, ALERT# as a matter of the two class sets, and
which commands move the fault unit or the tick counter that its records carry. -/

namespace Sys2Proof.Machine

/-! ### The class sets and ALERT# -/

/-- Two class sets share a class when their meet is not empty. -/
theorem and_ne_zero_iff_exists {n : Nat} (a b : BitVec n) : a &&& b ≠ 0 ↔ ∃ k : Fin n, a[k] = true ∧ b[k] = true := by
  constructor
  · intro hne
    by_contra hno
    refine hne (BitVec.eq_of_getElem_eq fun i hi => ?_)
    have hi' : ¬(a[i] = true ∧ b[i] = true) := fun h => hno ⟨⟨i, hi⟩, h⟩
    simpa using hi'
  · rintro ⟨k, ha, hb⟩ hzero
    have hk : (a &&& b)[k] = true := by simpa using ⟨ha, hb⟩
    simp [hzero] at hk

/-- ALERT# follows its condition (R171). -/
theorem FaultUnit.drive_alert_iff (f : FaultUnit) :
    f.drive.alert = true ↔ f.drive.pendingClasses &&& f.drive.enabledClasses ≠ 0 := bne_iff_ne

theorem FaultUnit.drive_eq (f : FaultUnit) :
    f.drive = { f with alert := decide (f.pendingClasses &&& f.enabledClasses ≠ 0) } := by
  have halert : f.drive.alert = decide (f.pendingClasses &&& f.enabledClasses ≠ 0) := by
    rw [Bool.eq_iff_iff, f.drive_alert_iff, decide_eq_true_iff]
    rfl
  rw [← halert]
  rfl

/-- After ALERT# was driven only the log can break the law (R165, R171). -/
theorem State.FaultLaw.of_drive {s : State} {f : FaultUnit} (hf : s.faultUnit = f.drive) (hlog : f.log.length ≤ 16) :
    s.FaultLaw := by
  rw [State.FaultLaw, hf]
  exact ⟨hlog, f.drive_alert_iff.trans (and_ne_zero_iff_exists _ _)⟩

/-- The codes of Table 10-1 count the classes from 1. -/
theorem FaultClass.code_eq (c : FaultClass) : c.code = c.ctorIdx + 1 := by cases c <;> rfl

theorem FaultClass.code_le (c : FaultClass) : c.code ≤ 12 := by cases c <;> decide

theorem FaultClass.code_injective {c d : FaultClass} (h : c.code = d.code) : c = d := by
  rw [c.code_eq, d.code_eq, Nat.add_right_cancel_iff] at h
  rw [← FaultClass.ofNat_ctorIdx c, h, FaultClass.ofNat_ctorIdx]

/-- The set of one class holds that class only (Table 10-3). -/
theorem FaultClass.getLsbD_bit (d c : FaultClass) : d.bit.getLsbD (c.code - 1) = true ↔ d = c := by
  have hc := c.code_le
  have hc' := c.code_eq
  have hd' := d.code_eq
  rw [FaultClass.bit, BitVec.getLsbD_twoPow, Bool.and_eq_true, decide_eq_true_iff, decide_eq_true_iff]
  constructor
  · rintro ⟨-, h⟩
    exact FaultClass.code_injective (by omega)
  · rintro rfl
    exact ⟨by omega, rfl⟩

/-! ### The log -/

/-- MORE is set on the youngest record (R166). -/
theorem markMore_concat (older : List FaultRecord) (youngest : FaultRecord) :
    markMore (older ++ [youngest]) = older ++ [{ youngest with more := true }] := by
  induction older with
  | nil => rfl
  | cons r rs ih =>
    rw [List.cons_append, markMore, ih]
    · rfl
    · simp

@[simp] theorem length_markMore (log : List FaultRecord) : (markMore log).length = log.length := by
  rcases log.eq_nil_or_concat' with rfl | ⟨older, youngest, rfl⟩
  · rfl
  · simp [markMore_concat]

/-- The record of a fault that finds room in the log, MORE not set (R164, R166). -/
def freshRecord (tick : BitVec 32) (i : FaultInfo) : FaultRecord := { info := i, tick := tick, more := false }

theorem FaultUnit.record_log_of_room {f : FaultUnit} (h : f.log.length < 16) (tick : BitVec 32) (i : FaultInfo) :
    (f.record tick i).log = f.log ++ [freshRecord tick i] := if_pos h

theorem FaultUnit.record_log_of_full {f : FaultUnit} (h : 16 ≤ f.log.length) (tick : BitVec 32) (i : FaultInfo) :
    (f.record tick i).log = markMore f.log := if_neg (Nat.not_lt.2 h)

/-- No record takes the log beyond its room (R165). -/
theorem FaultUnit.record_log_length_le {f : FaultUnit} (h : f.log.length ≤ 16) (tick : BitVec 32) (i : FaultInfo) :
    (f.record tick i).log.length ≤ 16 := by
  rcases Nat.lt_or_ge f.log.length 16 with hroom | hfull
  · rw [record_log_of_room hroom, List.length_append]
    exact hroom
  · rw [record_log_of_full hfull, length_markMore]
    exact h

/-! ### One report -/

/-- The records of a report, before ALERT# follows (R163). -/
def FaultUnit.recordAll (f : FaultUnit) (tick : BitVec 32) (faults : List FaultInfo) : FaultUnit :=
  faults.foldl (fun f i => f.record tick i) f

theorem FaultUnit.take_eq (f : FaultUnit) (tick : BitVec 32) (faults : List FaultInfo) :
    f.take tick faults = (f.recordAll tick faults).drive := rfl

theorem FaultUnit.recordAll_cons (f : FaultUnit) (tick : BitVec 32) (i : FaultInfo) (is : List FaultInfo) :
    f.recordAll tick (i :: is) = (f.record tick i).recordAll tick is := rfl

theorem FaultUnit.recordAll_append (f : FaultUnit) (tick : BitVec 32) (is js : List FaultInfo) :
    f.recordAll tick (is ++ js) = (f.recordAll tick is).recordAll tick js := List.foldl_append

theorem FaultUnit.recordAll_log_length_le {tick : BitVec 32} {faults : List FaultInfo} : ∀ {f : FaultUnit},
    f.log.length ≤ 16 → (f.recordAll tick faults).log.length ≤ 16 := by
  induction faults with
  | nil => exact id
  | cons i is ih => exact fun h => ih (FaultUnit.record_log_length_le h tick i)

@[simp] theorem FaultUnit.recordAll_enabledClasses (tick : BitVec 32) (faults : List FaultInfo) : ∀ f : FaultUnit,
    (f.recordAll tick faults).enabledClasses = f.enabledClasses := by
  induction faults with
  | nil => exact fun _ => rfl
  | cons i is ih => exact fun f => ih (f.record tick i)

/-- Every class of the report becomes pending, whether its record is lost or not (R168). -/
theorem FaultUnit.recordAll_pending_iff (tick : BitVec 32) (c : FaultClass) (faults : List FaultInfo) : ∀ f : FaultUnit,
    (f.recordAll tick faults).pendingClasses.getLsbD (c.code - 1) = true ↔
      f.pendingClasses.getLsbD (c.code - 1) = true ∨ ∃ i ∈ faults, i.cls = c := by
  induction faults with
  | nil => simp [FaultUnit.recordAll]
  | cons i is ih =>
    intro f
    have hone : (f.record tick i).pendingClasses.getLsbD (c.code - 1) = true ↔
        f.pendingClasses.getLsbD (c.code - 1) = true ∨ i.cls = c := by
      rw [FaultUnit.record, BitVec.getLsbD_or, Bool.or_eq_true, FaultClass.getLsbD_bit]
    rw [FaultUnit.recordAll_cons, ih, hone, List.exists_mem_cons_iff, or_assoc]

/-- A report that finds room for all its records (R165). -/
theorem FaultUnit.recordAll_log_of_room {tick : BitVec 32} {faults : List FaultInfo} : ∀ {f : FaultUnit},
    f.log.length + faults.length ≤ 16 → (f.recordAll tick faults).log = f.log ++ faults.map (freshRecord tick) := by
  induction faults with
  | nil => exact fun _ => (List.append_nil _).symm
  | cons i is ih =>
    intro f h
    rw [List.length_cons] at h
    have hlog := FaultUnit.record_log_of_room (f := f) (by omega) tick i
    rw [FaultUnit.recordAll_cons, ih (by rw [hlog, List.length_append, List.length_singleton]; omega), hlog,
      List.append_assoc]
    rfl

/-- A report that finds the log full: its records are lost, and the youngest in the log says so (R166). -/
theorem FaultUnit.recordAll_log_of_full {tick : BitVec 32} {older : List FaultRecord} {faults : List FaultInfo}
    (hne : faults ≠ []) : ∀ {f : FaultUnit} {youngest : FaultRecord}, f.log = older ++ [youngest] →
      16 ≤ f.log.length → (f.recordAll tick faults).log = older ++ [{ youngest with more := true }] := by
  induction faults with
  | nil => exact absurd rfl hne
  | cons i is ih =>
    intro f youngest hlog hfull
    have hone : (f.record tick i).log = older ++ [{ youngest with more := true }] := by
      rw [FaultUnit.record_log_of_full hfull, hlog, markMore_concat]
    have hstill : 16 ≤ (f.record tick i).log.length := by rwa [FaultUnit.record_log_of_full hfull, length_markMore]
    rcases eq_or_ne is [] with rfl | hmore
    · exact hone
    · have hlast := ih hmore hone hstill
      exact hlast

/-- A report that fills the log: the records that find no room are lost, and the youngest in the log says so (R165, R166). -/
theorem FaultUnit.recordAll_log_of_overflow {f : FaultUnit} {tick : BitVec 32} {faults : List FaultInfo}
    (hlog : f.log.length ≤ 16) (hover : 16 < f.log.length + faults.length) :
    ∃ older youngest, f.log ++ (faults.take (16 - f.log.length)).map (freshRecord tick) = older ++ [youngest] ∧
      (f.recordAll tick faults).log = older ++ [{ youngest with more := true }] := by
  have hroom : (faults.take (16 - f.log.length)).length = 16 - f.log.length := List.length_take_of_le (by omega)
  have hrest : faults.drop (16 - f.log.length) ≠ [] := by rw [ne_eq, List.drop_eq_nil_iff]; omega
  have hfilled : (f.recordAll tick (faults.take (16 - f.log.length))).log =
      f.log ++ (faults.take (16 - f.log.length)).map (freshRecord tick) := FaultUnit.recordAll_log_of_room (by omega)
  have hfull : (f.recordAll tick (faults.take (16 - f.log.length))).log.length = 16 := by
    rw [hfilled, List.length_append, List.length_map]
    omega
  rcases List.eq_nil_or_concat' (f.recordAll tick (faults.take (16 - f.log.length))).log with
    hnil | ⟨older, youngest, hlast⟩
  · simp [hnil] at hfull
  · refine ⟨older, youngest, hfilled.symm.trans hlast, ?_⟩
    conv_lhs => rw [← List.take_append_drop (16 - f.log.length) faults, FaultUnit.recordAll_append]
    exact FaultUnit.recordAll_log_of_full hrest hlast hfull.ge

/-! ### What leaves the fault unit and the tick counter alone -/

/-- From `s` to `t` the fault unit is the same, and so is the tick counter that its next record would carry. -/
def State.KeepsFaults (s t : State) : Prop := t.faultUnit = s.faultUnit ∧ t.clock.counter = s.clock.counter

theorem State.KeepsFaults.refl (s : State) : s.KeepsFaults s := ⟨rfl, rfl⟩

theorem State.KeepsFaults.trans {s t r : State} (h : s.KeepsFaults t) (h' : t.KeepsFaults r) : s.KeepsFaults r :=
  ⟨h'.1.trans h.1, h'.2.trans h.2⟩

theorem State.report_keepsFaults (s : State) (src : FaultSource) (fs : List FaultInfo) : s.KeepsFaults (s.report src fs) :=
  ⟨s.report_faultUnit src fs, by rw [s.report_clock]⟩

theorem State.applyLock_keepsFaults (s : State) (e : LockEffect) : s.KeepsFaults (s.applyLock e) := by
  rw [State.applyLock_eq]
  exact .refl s

theorem State.advance_keepsFaults (s : State) (p : PortId) (own : List Frame) : s.KeepsFaults (s.advance p own) := by
  obtain ⟨fs, n, -, h⟩ := s.advance_writes p own
  rw [h]
  exact .refl s

theorem State.takeOp_keepsFaults (s : State) (p : PortId) (k : LockOpKind) (effect : LockOp → LockEffect) :
    s.KeepsFaults (s.takeOp p k effect) := by
  rw [State.takeOp]
  split
  · exact .refl s
  · rename_i op _
    split
    · obtain ⟨-, -, -, -, ⟨-, hclock, -, -, -, hfault, -⟩, -⟩ := s.finishOp_spec p (effect op)
      exact ⟨hfault, congrArg LockClock.counter hclock⟩
    · exact .refl s

theorem State.portReset_keepsFaults (s : State) (p : PortId) (close : Bool) : s.KeepsFaults (s.portReset p close) := .refl s

theorem State.linkLoss_keepsFaults (s : State) (p : PortId) : s.KeepsFaults (s.linkLoss p) :=
  (s.report_keepsFaults _ _).trans (State.portReset_keepsFaults _ p false)

theorem State.endReset_keepsFaults (s : State) (p : PortId) : s.KeepsFaults (s.endReset p) := by
  obtain ⟨l, sup, h, -⟩ := s.endReset_writes p
  rw [h]
  exact .refl s

theorem State.takeOpen_keepsFaults (s : State) (p : PortId) : s.KeepsFaults (s.takeOpen p) := by
  rw [State.takeOpen]
  dsimp only
  split
  · split <;> exact .refl s
  · exact .refl s
  · exact .refl s

theorem State.takeClose_keepsFaults (s : State) (p : PortId) : s.KeepsFaults (s.takeClose p) := by
  rw [State.takeClose]
  split
  · exact .refl s
  · exact s.portReset_keepsFaults p true
  · exact .refl s

theorem State.takeSilence_keepsFaults (s : State) (p : PortId) : s.KeepsFaults (s.takeSilence p) := by
  rw [State.takeSilence]
  split
  · exact s.linkLoss_keepsFaults p
  · exact .refl s
  · exact .refl s

theorem State.takeBadFrame_keepsFaults (s : State) (p : PortId) : s.KeepsFaults (s.takeBadFrame p) := by
  rw [State.takeBadFrame]
  dsimp only
  split
  · exact .refl s
  · exact .refl s
  · split
    · exact State.linkLoss_keepsFaults _ p
    · exact .refl s

theorem State.takeRequest_keepsFaults (s : State) (p : PortId) (kind : BitVec 4) (tag : Tag) (size : Byte) (addr : Word)
    (data : List Byte) : s.KeepsFaults (s.takeRequest p kind tag size addr data) := by
  rw [State.takeRequest]
  split
  · exact State.report_keepsFaults _ _ _
  · exact .refl s
  · dsimp only
    split
    · exact State.report_keepsFaults _ _ _
    · exact State.advance_keepsFaults _ p []

theorem State.issueHead_keepsFaults (s : State) (p : PortId) (q : Request) (guard : Option LockId) :
    s.KeepsFaults (s.issueHead p q guard) := State.advance_keepsFaults _ p _

theorem State.dropHead_keepsFaults (s : State) (p : PortId) (q : Request) : s.KeepsFaults (s.dropHead p q) :=
  State.advance_keepsFaults _ p _

/-- An increment claim reports a refused write, and the report waits (R75, R143, R163). -/
theorem State.claimHead_keepsFaults (s : State) (p : PortId) (q : Request) (l : LockId) (w : WindowId)
    (policy : WritePolicy) : s.KeepsFaults (s.claimHead p q l w policy) := by
  rw [State.claimHead]
  split
  · exact State.issueHead_keepsFaults _ p q _
  · dsimp only
    split
    · exact .trans (s.report_keepsFaults _ _) (State.issueHead_keepsFaults _ p q _)
    · exact .trans (s.report_keepsFaults _ _) (State.dropHead_keepsFaults _ p q)

theorem State.completeAtPort_keepsFaults (s : State) (e : FlightEntry) : s.KeepsFaults (s.completeAtPort e) :=
  State.endReset_keepsFaults _ e.port

theorem State.completeRead_keepsFaults (s : State) (e : FlightEntry) (failed : Bool) (data : List Byte) :
    s.KeepsFaults (s.completeRead e failed data) := by
  rw [State.completeRead]
  refine .trans ?_ (State.endReset_keepsFaults _ e.port)
  exact State.report_keepsFaults _ _ _

theorem State.completeWrite_keepsFaults (s : State) (e : FlightEntry) (failed : Bool) :
    s.KeepsFaults (s.completeWrite e failed) := by
  rw [State.completeWrite]
  split
  · exact .trans (s.report_keepsFaults _ _) (State.completeAtPort_keepsFaults _ e)
  · exact .trans (s.applyLock_keepsFaults _) (State.completeAtPort_keepsFaults _ e)

/-- A completion (R145). -/
theorem State.complete_keepsFaults (s : State) (e : FlightEntry) (rest : List FlightEntry) (result : MemResult)
    (data : List Byte) : s.KeepsFaults (s.complete e rest result data) := by
  rw [State.complete]
  dsimp only
  split
  · exact State.completeRead_keepsFaults _ e _ data
  · exact State.completeWrite_keepsFaults _ e _

/-- The port-gone claim (R154). -/
theorem State.takeClaim_keepsFaults (s : State) (p : PortId) : s.KeepsFaults (s.takeClaim p) := by
  rw [State.takeClaim]
  exact .trans (s.applyLock_keepsFaults (s.lockUnit.claim p)) (State.endReset_keepsFaults _ p)

theorem State.setPortItems_keepsFaults (s : State) (p : PortId) (enabled : Bool) (cls : PortClass) (limit : BitVec 16) :
    s.KeepsFaults (s.setPortItems p enabled cls limit) := by
  rw [State.setPortItems]
  dsimp only
  split <;> exact .refl s

theorem State.latch_keepsFaults (s : State) (x : Snapshot) : s.KeepsFaults (s.latch x) := by
  rw [State.latch]
  split <;> exact .refl s

/-! ### What each command does to them -/

/-- What a command taken in `s` with outcome `t` can do to the fault unit and the tick counter. -/
inductive FaultEffect (c : Instr) (s t : State) : Prop
  | kept (hkept : s.KeepsFaults t)
  | reset (hreset : isResetCommand c = true) (hfault : t.faultUnit = State.reset.faultUnit)
  | tick (htick : c = .lockClockTick) (hfault : t.faultUnit = s.faultUnit)
  | take (hcount : t.clock.counter = s.clock.counter) (faults : List FaultInfo)
      (hfault : t.faultUnit = s.faultUnit.take s.clock.counter faults)
  | read (hcount : t.clock.counter = s.clock.counter)
      (hfault : t.faultUnit = { s.faultUnit with log := s.faultUnit.log.tail })
  | sets (hcount : t.clock.counter = s.clock.counter) (pending enabled : BitVec 12)
      (hfault : t.faultUnit =
        ({ s.faultUnit with pendingClasses := pending, enabledClasses := enabled } : FaultUnit).drive)

section
variable {c : Instr} {s t : State} {k : State → State}

/-- With RESET# low an event changes nothing. -/
theorem FaultEffect.of_running (he : (.next (s.running k) : Host.Outcome State Fault Refusal) = .next t)
    (h : FaultEffect c s (k s)) : FaultEffect c s t := by
  obtain rfl := Host.Outcome.next.inj he
  rw [State.running]
  split
  · exact .kept (.refl s)
  · exact h

/-- A write that is not taken changes the acknowledge bit only. -/
theorem FaultEffect.of_command (he : (.next (s.command k) : Host.Outcome State Fault Refusal) = .next t)
    (h : FaultEffect c s (k (s.acknowledge true))) : FaultEffect c s t := by
  obtain rfl := Host.Outcome.next.inj he
  rw [State.command]
  split
  · exact .kept (.refl s)
  · split
    · exact .kept (.refl s)
    · exact h
    · exact h

theorem FaultEffect.kept_of_running (he : (.next (s.running k) : Host.Outcome State Fault Refusal) = .next t)
    (h : s.KeepsFaults (k s)) : FaultEffect c s t := .of_running he (.kept h)

theorem FaultEffect.kept_of_command (he : (.next (s.command k) : Host.Outcome State Fault Refusal) = .next t)
    (h : s.KeepsFaults (k (s.acknowledge true))) : FaultEffect c s t := .of_command he (.kept h)

end

/-- FAULT_REPORT takes the oldest report of its block, if there is one (R163). -/
theorem execFaultReport_faultEffect {src : FaultSource} {s t : State} (he : execFaultReport src s = .next t) :
    FaultEffect (.faultReport src) s t := by
  refine .of_running he ?_
  split
  · exact .kept (.refl s)
  · rename_i r rest _
    exact .take rfl r.faults rfl

/-- READ_FAULT takes the oldest record from the log, if there is one (R167). -/
theorem execReadFault_faultEffect {s t : State} (he : execReadFault s = .next t) : FaultEffect .readFault s t := by
  refine .of_command he ?_
  split
  · exact .kept (.refl s)
  · rename_i r rest hlog
    have hlog : s.faultUnit.log = r :: rest := hlog
    exact .read rfl (by rw [hlog]; rfl)

/-- Every command but the resets, the tick, FAULT_REPORT, READ_FAULT, SET_ALERT_MASK and CLEAR_ALERT leaves both alone. -/
theorem exec_faultEffect {c : Instr} {s t : State} (he : exec c s = .next t) : FaultEffect c s t := by
  cases c with
  | powerOn _ _ => obtain rfl := Host.Outcome.next.inj he; exact .reset rfl rfl
  | resetAssert _ => obtain rfl := Host.Outcome.next.inj he; exact .reset rfl rfl
  | resetRelease straps =>
    have he : execResetRelease straps s = .next t := he
    rw [execResetRelease] at he
    split at he
    · obtain rfl := Host.Outcome.next.inj he; exact .reset rfl rfl
    · obtain rfl := Host.Outcome.next.inj he; exact .kept (.refl s)
  | openFrame p => exact .kept_of_running he (s.takeOpen_keepsFaults p)
  | closeFrame p => exact .kept_of_running he (s.takeClose_keepsFaults p)
  | request p kind tag size addr data =>
    refine .kept_of_running he ?_
    split
    · exact s.takeRequest_keepsFaults p kind tag size addr data
    · exact s.takeBadFrame_keepsFaults p
  | badFrame p => exact .kept_of_running he (s.takeBadFrame_keepsFaults p)
  | linkSilence p => exact .kept_of_running he (s.takeSilence_keepsFaults p)
  | frameSent p => exact .kept_of_running he (.refl s)
  | acquireExclusive p => exact .kept_of_running he (s.takeOp_keepsFaults p _ _)
  | acquireShared p => exact .kept_of_running he (s.takeOp_keepsFaults p _ _)
  | tryExclusive p => exact .kept_of_running he (s.takeOp_keepsFaults p _ _)
  | tryShared p => exact .kept_of_running he (s.takeOp_keepsFaults p _ _)
  | inspect p => exact .kept_of_running he (s.takeOp_keepsFaults p _ _)
  | release p => exact .kept_of_running he (s.takeOp_keepsFaults p _ _)
  | releaseLatest p => exact .kept_of_running he (s.takeOp_keepsFaults p _ _)
  | withdraw p => exact .kept_of_running he (s.takeOp_keepsFaults p _ _)
  | misuseAccess p => exact .kept_of_running he (s.takeOp_keepsFaults p _ _)
  | lockClockTick => exact .of_running he (.tick rfl rfl)
  | tickClaim l =>
    refine .kept_of_running he ?_
    split <;> exact .refl s
  | leaseExpiry l => exact .kept_of_running he (s.applyLock_keepsFaults _)
  | waitTimeout l p => exact .kept_of_running he (s.applyLock_keepsFaults _)
  | issueDecision =>
    refine .kept_of_running he ?_
    split <;> exact .refl s
  | issue =>
    refine .kept_of_running he ?_
    split
    · exact s.issueHead_keepsFaults _ _ none
    · exact s.issueHead_keepsFaults _ _ none
    · exact .refl s
    · exact .refl s
    · exact .refl s
  | incrementClaim =>
    refine .kept_of_running he ?_
    split
    · exact s.claimHead_keepsFaults _ _ _ _ _
    · exact .refl s
    · exact .refl s
    · exact .refl s
    · exact .refl s
  | issueSlotFreed =>
    refine .kept_of_running he ?_
    split <;> exact .refl s
  | memCompletion session result data =>
    refine .kept_of_running he ?_
    split
    · split
      · exact .refl s
      · exact s.complete_keepsFaults _ _ result data
    · exact .refl s
  | portGoneClaim p =>
    refine .kept_of_running he ?_
    split
    · exact s.takeClaim_keepsFaults p
    · exact .refl s
  | faultReport src => exact execFaultReport_faultEffect he
  | badCommandFrame bytes =>
    refine .kept_of_command he ?_
    split <;> exact .refl s
  | commandWriteNak =>
    have he : execCommandWriteNak s = .next t := he
    rw [execCommandWriteNak] at he
    split at he
    · obtain rfl := Host.Outcome.next.inj he; exact .kept (.refl s)
    · split at he <;> (obtain rfl := Host.Outcome.next.inj he; exact .kept (.refl s))
  | setClock period =>
    refine .kept_of_command he ?_
    split <;> exact .refl s
  | setPort port enable cls limit =>
    refine .kept_of_command he ?_
    split
    · exact State.setPortItems_keepsFaults (s.acknowledge true) _ _ _ limit
    · exact .refl s
  | setWeight k =>
    refine .kept_of_command he ?_
    split <;> exact .refl s
  | defineWindow window base pages kind lockRef wp rp =>
    refine .kept_of_command he ?_
    split
    · split <;> exact .refl s
    · exact .refl s
  | enableWindow window =>
    refine .kept_of_command he ?_
    split
    · exact .refl s
    · split
      · exact .refl s
      · exact .refl s
      · split
        · exact .refl s
        · split <;> exact .refl s
  | disableWindow window =>
    refine .kept_of_command he ?_
    split
    · exact .refl s
    · split
      · exact .refl s
      · exact .refl s
      · split <;> exact .refl s
  | readWindow window =>
    refine .kept_of_command he ?_
    split <;> exact .refl s
  | defineLock lock level lease lp op =>
    refine .kept_of_command he ?_
    split
    · split <;> exact .refl s
    · exact .refl s
  | undefineLock lock =>
    refine .kept_of_command he ?_
    split
    · exact .refl s
    · split
      · exact .refl s
      · split
        · exact .refl s
        · split <;> exact .refl s
  | forceRelease lock =>
    refine .kept_of_command he ?_
    split
    · exact .refl s
    · split
      · exact State.applyLock_keepsFaults (s.acknowledge true) _
      · exact State.applyLock_keepsFaults (s.acknowledge true) _
      · exact .refl s
      · exact .refl s
      · exact .refl s
      · exact .refl s
  | repairLock lock =>
    refine .kept_of_command he ?_
    split
    · exact .refl s
    · split
      · exact .refl s
      · split <;> exact .refl s
  | resetPort port =>
    refine .kept_of_command he ?_
    split
    · exact .refl s
    · split <;> exact .refl s
  | snapshotLock lock =>
    refine .kept_of_command he ?_
    split
    · exact .refl s
    · exact State.latch_keepsFaults (s.acknowledge true) _
  | snapshotPort port =>
    refine .kept_of_command he ?_
    split
    · exact .refl s
    · exact State.latch_keepsFaults (s.acknowledge true) _
  | readSnapshot =>
    refine .kept_of_command he ?_
    split <;> exact .refl s
  | readFault => exact execReadFault_faultEffect he
  | readAlert => exact .kept_of_command he (.refl s)
  | setAlertMask classes => exact .of_command he (.sets rfl s.faultUnit.pendingClasses (classes.setWidth 12) rfl)
  | clearAlert classes => exact .of_command he (.sets rfl _ s.faultUnit.enabledClasses rfl)
  | readStatus => exact .kept_of_command he (.refl s)

/-- No effect breaks the law: a reset gives the state after reset, the rest drives ALERT# anew or leaves both class sets. -/
theorem FaultEffect.faultLaw {c : Instr} {s t : State} (he : FaultEffect c s t) (h : s.FaultLaw) : t.FaultLaw := by
  have of_faultUnit : ∀ {r : State}, r.FaultLaw → t.faultUnit = r.faultUnit → t.FaultLaw := fun hr heq => by
    rwa [State.FaultLaw, heq]
  have ⟨hlog, halert⟩ := h
  cases he with
  | kept hkept => exact of_faultUnit h hkept.1
  | reset _ hfault => exact of_faultUnit .atReset hfault
  | tick _ hfault => exact of_faultUnit h hfault
  | take _ faults hfault => exact .of_drive (hfault.trans (s.faultUnit.take_eq _ faults)) (FaultUnit.recordAll_log_length_le hlog)
  | read _ hfault =>
    rw [State.FaultLaw, hfault, List.length_tail]
    exact ⟨(Nat.sub_le _ _).trans hlog, halert⟩
  | sets _ pending enabled hfault => exact .of_drive hfault hlog

/-- Only a tick or a reset moves the tick counter (R65, R161). -/
theorem FaultEffect.moves_counter {c : Instr} {s t : State} (he : FaultEffect c s t)
    (hmoved : t.clock.counter ≠ s.clock.counter) : c = .lockClockTick ∨ isResetCommand c = true := by
  cases he with
  | kept hkept => exact absurd hkept.2 hmoved
  | reset hreset _ => exact .inr hreset
  | tick htick _ => exact .inl htick
  | take hcount _ _ => exact absurd hcount hmoved
  | read hcount _ => exact absurd hcount hmoved
  | sets hcount _ _ _ => exact absurd hcount hmoved

/-! ### The fault commands -/

/-- FAULT_REPORT at a block whose oldest report is known, with what the taking leaves in the fault unit. -/
theorem exec_faultReport_of_split {s : State} {src : FaultSource} {before after : List Report} {r : Report}
    (hs : s.resetLow = false) (hw : s.reports = before ++ r :: after) (hb : ∀ b ∈ before, b.source ≠ src)
    (hr : r.source = src) : exec (.faultReport src) s = .next { s with
      reports := before ++ after, faultUnit := (s.faultUnit.recordAll s.clock.counter r.faults).drive } :=
  execFaultReport_of_split s hs hw hr hb

theorem exec_readFault_of_empty {s : State} (hr : s.ready) (hlog : s.faultUnit.log = []) :
    exec .readFault s = .next (s.answered .empty []) := by
  show execReadFault s = _
  rw [execReadFault, s.command_of_ready _ hr, State.acknowledge_faultUnit, hlog]
  rfl

theorem exec_readFault_of_cons {s : State} (hr : s.ready) {r : FaultRecord} {rest : List FaultRecord}
    (hlog : s.faultUnit.log = r :: rest) : exec .readFault s = .next
      (({ s with faultUnit := { s.faultUnit with log := rest } } : State).answered .done r.bytes) := by
  show execReadFault s = _
  rw [execReadFault, s.command_of_ready _ hr, State.acknowledge_faultUnit, hlog]
  rfl

/-! ### The bytes of a record -/

/-- The class code with MORE above it. -/
theorem byteOf_code_or_more (r : FaultRecord) :
    byteOf r.info.cls.code ||| bitAt 7 r.more = byteOf (r.info.cls.code + 128 * r.more.toNat) :=
  byteOf_or_bitAt (by have := r.info.cls.code_le; omega) r.more

/-- Six flags are a number in base 2. -/
theorem bitAt_or_six (a b c d e f : Bool) :
    bitAt 0 a ||| bitAt 1 b ||| bitAt 2 c ||| bitAt 3 d ||| bitAt 4 e ||| bitAt 5 f =
      byteOf (a.toNat + 2 * b.toNat + 4 * c.toNat + 8 * d.toNat + 16 * e.toNat + 32 * f.toNat) := by
  have := a.toNat_le; have := b.toNat_le; have := c.toNat_le; have := d.toNat_le; have := e.toNat_le
  have hfirst : bitAt 0 a = byteOf a.toNat := by cases a <;> rfl
  rw [hfirst, byteOf_or_bitAt (by omega), byteOf_or_bitAt (by omega), byteOf_or_bitAt (by omega),
    byteOf_or_bitAt (by omega), byteOf_or_bitAt (by omega)]
  norm_num

end Sys2Proof.Machine

open Sys2Proof Sys2Proof.Machine

/-- Settles O57: only a report adds to the log, within its room, and ALERT# is driven whenever a class set moves. -/
theorem faultLawKept : Obligations.FaultLawKept := by
  intro s t h hstep
  rw [step] at hstep
  split at hstep
  · obtain rfl := Host.Outcome.next.inj hstep
    exact h
  · rename_i c rest _
    exact (exec_faultEffect (s := { s with pending := rest }) hstep).faultLaw h

/-- Settles O41: a report is the records of its faults, one after another, and then ALERT#. -/
theorem faultReportIsTakenWhole : Obligations.FaultReportIsTakenWhole := by
  refine ⟨fun src s hs => ⟨execFaultReport_of_none s hs, fun before r after hw hb hr => ?_⟩,
    fun c s t he => (exec_faultEffect he).moves_counter⟩
  refine ⟨_, exec_faultReport_of_split hs hw hb hr, FaultUnit.recordAll_enabledClasses _ _ _,
    fun c => FaultUnit.recordAll_pending_iff _ c _ _, FaultUnit.drive_alert_iff _, ?_⟩
  intro record
  exact ⟨FaultUnit.recordAll_log_of_room, FaultUnit.recordAll_log_of_overflow⟩

/-- Settles O42: the answer is the log's first record, and each byte of it a field or the flags above one another. -/
theorem readFaultTakesOldest : Obligations.ReadFaultTakesOldest := by
  refine ⟨fun s hr => ⟨exec_readFault_of_empty hr, fun r rest hlog => ⟨rfl, exec_readFault_of_cons hr hlog⟩⟩,
    fun r => ?_, rfl, rfl, rfl, rfl, rfl, rfl, rfl, rfl, rfl, rfl, rfl, rfl⟩
  rw [FaultRecord.bytes, byteOf_code_or_more, bitAt_or_six]
  obtain ⟨⟨cls, port, tag, lock, window, generation, addr⟩, tick, more⟩ := r
  refine congrArg₂ (· ++ ·) (congrArg₂ (· ++ ·) (congrArg₂ (· ++ ·) ?fields ?generation) ?addr) rfl
  case fields =>
    refine congrArg (_ :: _ :: ·) ?_
    refine List.cons_eq_cons.2 ⟨?_, List.cons_eq_cons.2 ⟨?_, List.cons_eq_cons.2 ⟨?_, congrArg ([·]) ?_⟩⟩⟩
    · cases port <;> rfl
    · cases tag <;> rfl
    · cases lock <;> rfl
    · cases window <;> rfl
  case generation => cases generation <;> rfl
  case addr => cases addr <;> rfl

/-- Settles O43: both commands write one class set and drive ALERT#. -/
theorem alertSetsAndTheLine : Obligations.AlertSetsAndTheLine := by
  intro classes s hr f named
  refine ⟨?_, ?_⟩
  · show execSetAlertMask classes s = _
    rw [execSetAlertMask, s.command_of_ready _ hr, FaultUnit.drive_eq]
    rfl
  · show execClearAlert classes s = _
    rw [execClearAlert, s.command_of_ready _ hr, FaultUnit.drive_eq]
    rfl

end

section
/-! Supervisor command frames (R174, Tables 11-1 and 11-3): the parameters of each opcode as one of six layouts, and that a
frame's bytes and its command determine each other. -/

namespace Sys2Proof.Machine

/-! ### Bytes of a field put together -/

theorem bytes16_field (b0 b1 : Byte) : bytes16 (field16 b0 b1) = [b0, b1] := by
  simp (disch := decide) only [bytes16, field16, BitVec.extractLsb'_append_eq_of_add_le,
    BitVec.extractLsb'_append_eq_of_le, Nat.reduceSub, BitVec.extractLsb'_eq_self]

theorem bytes32_field (b0 b1 b2 b3 : Byte) : bytes32 (field32 b0 b1 b2 b3) = [b0, b1, b2, b3] := by
  simp (disch := decide) only [bytes32, field32, BitVec.extractLsb'_append_eq_of_add_le,
    BitVec.extractLsb'_append_eq_of_le, Nat.reduceSub, BitVec.extractLsb'_eq_self]

/-! ### The layouts of Table 11-3 -/

/-- No parameter. -/
def readNothing (c : Instr) : List Byte → Option Instr
  | [] => some c
  | _ => none

/-- One number. -/
def readByte (f : Byte → Instr) : List Byte → Option Instr
  | [b] => some (f b)
  | _ => none

/-- One 16-bit field. -/
def readHalfword (f : BitVec 16 → Instr) : List Byte → Option Instr
  | [b0, b1] => some (f (field16 b0 b1))
  | _ => none

/-- SET_PORT: port, enable, class and wait limit. -/
def readPortItems : List Byte → Option Instr
  | [p, e, c, w0, w1] => some (.setPort p e c (field16 w0 w1))
  | _ => none

/-- DEFINE_LOCK: lock, level, lease and the two policies. -/
def readLockItems : List Byte → Option Instr
  | [l, level, t0, t1, lp, op] => some (.defineLock l level (field16 t0 t1) lp op)
  | _ => none

/-- DEFINE_WINDOW: window, base, pages, kind, lock and the two policies. -/
def readWindowItems : List Byte → Option Instr
  | [w, b0, b1, b2, b3, p0, p1, p2, p3, kind, lock, wp, rp] =>
    some (.defineWindow w (field32 b0 b1 b2 b3) (field32 p0 p1 p2 p3) kind lock wp rp)
  | _ => none

/-- The layout of each opcode. -/
def readParameters (op : Byte) (ps : List Byte) : Option Instr :=
  match op.toNat with
  | 0x01 => readHalfword .setClock ps
  | 0x02 => readPortItems ps
  | 0x03 => readByte .setWeight ps
  | 0x10 => readWindowItems ps
  | 0x11 => readByte .enableWindow ps
  | 0x12 => readByte .disableWindow ps
  | 0x13 => readByte .readWindow ps
  | 0x20 => readLockItems ps
  | 0x21 => readByte .undefineLock ps
  | 0x22 => readByte .forceRelease ps
  | 0x23 => readByte .repairLock ps
  | 0x30 => readByte .resetPort ps
  | 0x40 => readByte .snapshotLock ps
  | 0x41 => readByte .snapshotPort ps
  | 0x42 => readNothing .readSnapshot ps
  | 0x50 => readNothing .readFault ps
  | 0x51 => readNothing .readAlert ps
  | 0x52 => readHalfword .setAlertMask ps
  | 0x53 => readHalfword .clearAlert ps
  | 0x60 => readNothing .readStatus ps
  | _ => none

set_option smartUnfolding false in
/-- The model matches opcode and parameters at once, and Lean's `split` is too slow on a match of that size: the proofs take
the opcode first and its layout then. The two functions compute the same way. -/
theorem commandOfParameters_eq (op : Byte) (ps : List Byte) : commandOfParameters op ps = readParameters op ps := by
  rfl

/-! ### What a layout reads -/

/-- `read` takes `n` bytes, whatever they are, and the command it answers is written as `op` with these bytes. -/
structure ReadsParameters (read : List Byte → Option Instr) (op : Byte) (n : Nat) : Prop where
  answers : ∀ {ps}, ps.length = n → ∃ c, read ps = some c
  spells : ∀ {ps c}, read ps = some c → ps.length = n ∧ commandBytes c = some (commandBytesOf op ps)

section
variable {op : Byte}

theorem readNothing_reads {c : Instr} (hc : commandBytes c = some (commandBytesOf op [])) :
    ReadsParameters (readNothing c) op 0 where
  answers hlen := by
    obtain rfl := List.eq_nil_of_length_eq_zero hlen
    exact ⟨_, rfl⟩
  spells h := by
    unfold readNothing at h
    split at h <;> cases h
    exact ⟨rfl, hc⟩

theorem readByte_reads {f : Byte → Instr} (hf : ∀ b, commandBytes (f b) = some (commandBytesOf op [b])) :
    ReadsParameters (readByte f) op 1 where
  answers hlen := by
    obtain ⟨b, rfl⟩ := List.length_eq_one_iff.1 hlen
    exact ⟨_, rfl⟩
  spells h := by
    unfold readByte at h
    split at h <;> cases h
    exact ⟨rfl, hf _⟩

theorem readHalfword_reads {f : BitVec 16 → Instr}
    (hf : ∀ x, commandBytes (f x) = some (commandBytesOf op (bytes16 x))) : ReadsParameters (readHalfword f) op 2 where
  answers hlen := by
    obtain ⟨b0, b1, rfl⟩ := List.length_eq_two.1 hlen
    exact ⟨_, rfl⟩
  spells h := by
    unfold readHalfword at h
    split at h <;> cases h
    exact ⟨rfl, by rw [hf, bytes16_field]⟩

end

theorem readPortItems_reads : ReadsParameters readPortItems 0x02#8 5 where
  answers {ps} hlen := match ps, hlen with
    | [_, _, _, _, _], _ => ⟨_, rfl⟩
  spells h := by
    unfold readPortItems at h
    split at h <;> cases h
    exact ⟨rfl, congrArg (fun w => some (commandBytesOf _ (_ :: _ :: _ :: w))) (bytes16_field _ _)⟩

theorem readLockItems_reads : ReadsParameters readLockItems 0x20#8 6 where
  answers {ps} hlen := match ps, hlen with
    | [_, _, _, _, _, _], _ => ⟨_, rfl⟩
  spells h := by
    unfold readLockItems at h
    split at h <;> cases h
    exact ⟨rfl, congrArg (fun t => some (commandBytesOf _ (_ :: _ :: (t ++ [_, _])))) (bytes16_field _ _)⟩

theorem readWindowItems_reads : ReadsParameters readWindowItems 0x10#8 13 where
  answers {ps} hlen := match ps, hlen with
    | [_, _, _, _, _, _, _, _, _, _, _, _, _], _ => ⟨_, rfl⟩
  spells h := by
    unfold readWindowItems at h
    split at h <;> cases h
    exact ⟨rfl, congrArg₂ (fun b p => some (commandBytesOf _ (_ :: (b ++ p ++ [_, _, _, _]))))
      (bytes32_field _ _ _ _) (bytes32_field _ _ _ _)⟩

/-! ### Opcodes and their parameters -/

theorem readParameters_reads {op : Byte} {n : Nat} (h : parameterLength op = some n) :
    ReadsParameters (readParameters op) op n := by
  obtain ⟨k, hk⟩ := op
  rw [parameterLength, BitVec.toNat_ofFin] at h
  split at h <;> cases h
  all_goals subst_vars
  case h_1 | h_18 | h_19 => exact readHalfword_reads fun _ => rfl
  case h_2 => exact readPortItems_reads
  case h_4 => exact readWindowItems_reads
  case h_8 => exact readLockItems_reads
  case h_15 | h_16 | h_17 | h_20 => exact readNothing_reads rfl
  all_goals exact readByte_reads fun _ => rfl

theorem readParameters_of_no_opcode {op : Byte} (h : parameterLength op = none) (ps : List Byte) :
    readParameters op ps = none := by
  unfold parameterLength at h
  split at h
  case h_21 => simp [readParameters, *]
  all_goals cases h

theorem commandOfParameters_spells {op : Byte} {ps : List Byte} {c : Instr} (h : commandOfParameters op ps = some c) :
    parameterLength op = some ps.length ∧ commandBytes c = some (commandBytesOf op ps) := by
  rw [commandOfParameters_eq] at h
  cases hop : parameterLength op with
  | none => rw [readParameters_of_no_opcode hop] at h; cases h
  | some n =>
    obtain ⟨rfl, hbytes⟩ := (readParameters_reads hop).spells h
    exact ⟨rfl, hbytes⟩

theorem exists_command_of_parameterLength {op : Byte} {ps : List Byte} (h : parameterLength op = some ps.length) :
    ∃ c, commandOfParameters op ps = some c := by
  rw [commandOfParameters_eq]
  exact (readParameters_reads h).answers rfl

/-- The length byte holds every parameter length of Table 11-3. -/
theorem parameterLength_lt {op : Byte} {n : Nat} (h : parameterLength op = some n) : n < 256 := by
  unfold parameterLength at h
  split at h <;> cases h <;> decide

/-- The bytes of a command are its opcode, a length and its parameters, and these name the command again. -/
theorem commandBytes_reads {c : Instr} {bytes : List Byte} (h : commandBytes c = some bytes) :
    ∃ op ps, bytes = commandBytesOf op ps ∧ commandOfParameters op ps = some c := by
  cases c with
  | setClock x => cases h; exact ⟨_, _, rfl, congrArg (fun y => some (Instr.setClock y)) (field16_bytes x)⟩
  | setAlertMask x => cases h; exact ⟨_, _, rfl, congrArg (fun y => some (Instr.setAlertMask y)) (field16_bytes x)⟩
  | clearAlert x => cases h; exact ⟨_, _, rfl, congrArg (fun y => some (Instr.clearAlert y)) (field16_bytes x)⟩
  | setPort p e k w => cases h; exact ⟨_, _, rfl, congrArg (fun y => some (Instr.setPort p e k y)) (field16_bytes w)⟩
  | defineLock l level lease lp op =>
    cases h
    exact ⟨_, _, rfl, congrArg (fun y => some (Instr.defineLock l level y lp op)) (field16_bytes lease)⟩
  | defineWindow w base pages kind lock wp rp =>
    cases h
    exact ⟨_, _, rfl, congrArg₂ (fun b p => some (Instr.defineWindow w b p kind lock wp rp))
      (field32_bytes base) (field32_bytes pages)⟩
  | setWeight | enableWindow | disableWindow | readWindow | undefineLock | forceRelease | repairLock | resetPort
  | snapshotLock | snapshotPort | readSnapshot | readFault | readAlert | readStatus =>
    cases h
    exact ⟨_, _, rfl, rfl⟩
  | _ => cases h

/-! ### Frames -/

theorem commandFormGood_cons_iff {op n : Byte} {ps : List Byte} :
    commandFormGood (op :: n :: ps) = true ↔ ps.length = n.toNat ∧ parameterLength op = some ps.length := by
  simp only [commandFormGood, Bool.and_eq_true, beq_iff_eq]
  exact and_congr_right fun hlen => by rw [hlen]

theorem commandFrame_of_some {op n : Byte} {ps : List Byte} {c : Instr} (hlen : ps.length = n.toNat)
    (h : commandOfParameters op ps = some c) : commandFrame (op :: n :: ps) = c := by
  rw [commandFrame, if_pos hlen, h, Option.getD_some]

theorem byteOf_toNat_of_lt {n : Nat} (h : n < 256) : (byteOf n).toNat = n :=
  (BitVec.toNat_ofNat n 8).trans (Nat.mod_eq_of_lt h)

theorem commandBytes_roundTrip {c : Instr} {bytes : List Byte} (h : commandBytes c = some bytes) :
    commandFrame bytes = c ∧ commandFormGood bytes = true := by
  obtain ⟨op, ps, rfl, hc⟩ := commandBytes_reads h
  have hop := (commandOfParameters_spells hc).1
  have hlen : ps.length = (byteOf ps.length).toNat := (byteOf_toNat_of_lt (parameterLength_lt hop)).symm
  exact ⟨commandFrame_of_some hlen hc, commandFormGood_cons_iff.2 ⟨hlen, hop⟩⟩

theorem commandBytes_commandFrame {bytes : List Byte} (h : commandFormGood bytes = true) :
    commandBytes (commandFrame bytes) = some bytes := by
  match bytes with
  | [] | [_] => cases h
  | op :: n :: ps =>
    obtain ⟨hlen, hop⟩ := commandFormGood_cons_iff.1 h
    obtain ⟨c, hc⟩ := exists_command_of_parameterLength hop
    have hn : byteOf ps.length = n := by rw [hlen, byteOf, BitVec.ofNat_toNat, BitVec.setWidth_eq]
    rw [commandFrame_of_some hlen hc, (commandOfParameters_spells hc).2, commandBytesOf, hn]

theorem commandFrame_of_bad {bytes : List Byte} (h : commandFormGood bytes = false) :
    commandFrame bytes = .badCommandFrame bytes := by
  match bytes with
  | [] | [_] => rfl
  | op :: n :: ps =>
    rw [commandFrame]
    split
    case isFalse => rfl
    case isTrue hlen =>
      cases hc : commandOfParameters op ps with
      | none => rfl
      | some c =>
        have hgood := commandFormGood_cons_iff.2 ⟨hlen, (commandOfParameters_spells hc).1⟩
        exact absurd (h.symm.trans hgood) Bool.false_ne_true

end Sys2Proof.Machine

open Sys2Proof Sys2Proof.Machine

/-- Settles O53: an opcode's layout reads the parameters that it writes, and only as many as Table 11-3 gives it. -/
theorem commandFramesRoundTrip : Obligations.CommandFramesRoundTrip :=
  ⟨fun _ _ => commandBytes_roundTrip, fun _ => commandBytes_commandFrame, fun _ => commandFrame_of_bad⟩

end

section
/-! The queue of commands (log entries 1, 2 and 20): the step takes its front command, and no command stops the part or writes
the queue. -/

namespace Sys2Proof.Machine

/-! ### What the step takes -/

theorem step_of_front (c : Instr) (rest : List Instr) (s : State) :
    step { s with pending := c :: rest } = exec c { s with pending := rest } := rfl

theorem step_of_idle {s : State} (h : s.pending = []) : step s = .next s := by
  rw [step, h]

/-! ### Shared operations leave the queue alone -/

@[simp] theorem State.applyLock_pending (s : State) (e : LockEffect) : (s.applyLock e).pending = s.pending := by
  rw [State.applyLock_eq]

@[simp] theorem State.advance_pending (s : State) (p : PortId) (own : List Frame) :
    (s.advance p own).pending = s.pending := by
  obtain ⟨fs, n, -, h⟩ := s.advance_writes p own
  rw [h]
  rfl

@[simp] theorem State.finishOp_pending (s : State) (p : PortId) (e : LockEffect) : (s.finishOp p e).pending = s.pending := by
  obtain ⟨-, -, -, -, ⟨-, -, -, -, -, -, hpending⟩, -⟩ := s.finishOp_spec p e
  exact hpending

@[simp] theorem State.takeOp_pending (s : State) (p : PortId) (k : LockOpKind) (effect : LockOp → LockEffect) :
    (s.takeOp p k effect).pending = s.pending := by
  rw [State.takeOp]
  split
  · rfl
  · split
    · exact s.finishOp_pending p _
    · rfl

@[simp] theorem State.portReset_pending (s : State) (p : PortId) (close : Bool) :
    (s.portReset p close).pending = s.pending := rfl

@[simp] theorem State.linkLoss_pending (s : State) (p : PortId) : (s.linkLoss p).pending = s.pending :=
  s.report_pending _ _

@[simp] theorem State.endReset_pending (s : State) (p : PortId) : (s.endReset p).pending = s.pending := by
  obtain ⟨l, sup, h, -⟩ := s.endReset_writes p
  rw [h]
  rfl

/-! ### Frames and silence -/

theorem State.takeOpen_pending (s : State) (p : PortId) : (s.takeOpen p).pending = s.pending := by
  rw [State.takeOpen]
  dsimp only
  split
  · split <;> rfl
  · rfl
  · rfl

theorem State.takeClose_pending (s : State) (p : PortId) : (s.takeClose p).pending = s.pending := by
  rw [State.takeClose]
  split <;> rfl

theorem State.takeSilence_pending (s : State) (p : PortId) : (s.takeSilence p).pending = s.pending := by
  rw [State.takeSilence]
  split
  · exact s.linkLoss_pending p
  · rfl
  · rfl

theorem State.takeBadFrame_pending (s : State) (p : PortId) : (s.takeBadFrame p).pending = s.pending := by
  rw [State.takeBadFrame]
  dsimp only
  split
  · rfl
  · rfl
  · split
    · exact State.linkLoss_pending _ p
    · rfl

theorem State.refuseRequest_pending (s : State) (p : PortId) (tag : Tag) (addr : Word) (reason : ProtocolReason) :
    (s.refuseRequest p tag addr reason).pending = s.pending :=
  State.report_pending _ _ _

theorem State.acceptRequest_pending (s : State) (p : PortId) (q : Request) : (s.acceptRequest p q).pending = s.pending :=
  State.advance_pending _ p []

theorem State.takeRequest_pending (s : State) (p : PortId) (kind : BitVec 4) (tag : Tag) (size : Byte) (addr : Word)
    (data : List Byte) : (s.takeRequest p kind tag size addr data).pending = s.pending := by
  rw [State.takeRequest]
  split
  · exact s.refuseRequest_pending p tag addr _
  · rfl
  · dsimp only
    split
    · exact State.refuseRequest_pending _ p tag addr _
    · exact State.acceptRequest_pending _ p _

/-! ### Issue, completions and the port-gone claim -/

@[simp] theorem State.issueHead_pending (s : State) (p : PortId) (q : Request) (guard : Option LockId) :
    (s.issueHead p q guard).pending = s.pending :=
  State.advance_pending _ p _

@[simp] theorem State.dropHead_pending (s : State) (p : PortId) (q : Request) : (s.dropHead p q).pending = s.pending :=
  State.advance_pending _ p _

theorem State.claimHead_pending (s : State) (p : PortId) (q : Request) (l : LockId) (w : WindowId) (policy : WritePolicy) :
    (s.claimHead p q l w policy).pending = s.pending := by
  rw [State.claimHead]
  split
  · simp
  · cases policy <;> simp

@[simp] theorem State.completeAtPort_pending (s : State) (e : FlightEntry) : (s.completeAtPort e).pending = s.pending :=
  State.endReset_pending _ e.port

theorem State.completeRead_pending (s : State) (e : FlightEntry) (failed : Bool) (data : List Byte) :
    (s.completeRead e failed data).pending = s.pending :=
  (State.endReset_pending _ e.port).trans (State.report_pending _ _ _)

theorem State.completeWrite_pending (s : State) (e : FlightEntry) (failed : Bool) :
    (s.completeWrite e failed).pending = s.pending := by
  rw [State.completeWrite]
  split <;> simp

theorem State.complete_pending (s : State) (e : FlightEntry) (rest : List FlightEntry) (result : MemResult)
    (data : List Byte) : (s.complete e rest result data).pending = s.pending := by
  rw [State.complete]
  dsimp only
  split
  · exact State.completeRead_pending _ e _ data
  · exact State.completeWrite_pending _ e _

theorem State.takeClaim_pending (s : State) (p : PortId) : (s.takeClaim p).pending = s.pending :=
  (State.endReset_pending _ p).trans (s.applyLock_pending _)

/-! ### The supervisor's commands -/

theorem State.setPortItems_pending (s : State) (p : PortId) (enabled : Bool) (cls : PortClass) (limit : BitVec 16) :
    (s.setPortItems p enabled cls limit).pending = s.pending := by
  rw [State.setPortItems]
  dsimp only
  split <;> rfl

theorem State.forceRevoke_pending (s : State) (l : LockId) : (s.forceRevoke l).pending = s.pending :=
  s.applyLock_pending _

theorem State.latch_pending (s : State) (x : Snapshot) : (s.latch x).pending = s.pending := by
  rw [State.latch]
  split <;> rfl

/-! ### Every command -/

/-- Command `c` is taken in every state and leaves the queue alone. -/
def KeepsQueue (c : Instr) : Prop := ∀ s : State, ∃ t, exec c s = .next t ∧ t.pending = s.pending

section
variable {c : Instr} {k : State → State}

/-- With RESET# low an event changes nothing; with RESET# high it has its effect. -/
theorem KeepsQueue.of_event (hexec : ∀ s, exec c s = .next (s.running k)) (hk : ∀ s, (k s).pending = s.pending) :
    KeepsQueue c := by
  refine fun s => ⟨_, hexec s, ?_⟩
  rw [State.running]
  split
  · rfl
  · exact hk s

/-- A write that is not taken changes the acknowledge bit only; one that is taken has its effect. -/
theorem KeepsQueue.of_write (hexec : ∀ s, exec c s = .next (s.command k)) (hk : ∀ s, (k s).pending = s.pending) :
    KeepsQueue c := by
  refine fun s => ⟨_, hexec s, ?_⟩
  rw [State.command]
  split
  · rfl
  · split
    · rfl
    · exact hk _
    · exact hk _

end

theorem resetRelease_keepsQueue (straps : BitVec 3) : KeepsQueue (.resetRelease straps) := by
  intro s
  by_cases hlow : s.resetLow = true
  · exact ⟨_, if_pos hlow, rfl⟩
  · exact ⟨s, if_neg hlow, rfl⟩

theorem commandWriteNak_keepsQueue : KeepsQueue .commandWriteNak := by
  intro s
  show ∃ t, execCommandWriteNak s = .next t ∧ t.pending = s.pending
  rw [execCommandWriteNak]
  split
  · exact ⟨_, rfl, rfl⟩
  · split <;> exact ⟨_, rfl, rfl⟩

/-- An effect made of the shared operations leaves the queue alone, on each branch of the command. -/
theorem exec_keepsQueue (c : Instr) : KeepsQueue c := by
  cases c with
  | powerOn | resetAssert => exact fun s => ⟨_, rfl, rfl⟩
  | resetRelease straps => exact resetRelease_keepsQueue straps
  | commandWriteNak => exact commandWriteNak_keepsQueue
  | openFrame p => exact .of_event (fun _ => rfl) fun s => s.takeOpen_pending p
  | closeFrame p => exact .of_event (fun _ => rfl) fun s => s.takeClose_pending p
  | request p kind tag size addr data =>
    refine .of_event (fun _ => rfl) fun s => ?_
    split
    · exact s.takeRequest_pending p kind tag size addr data
    · exact s.takeBadFrame_pending p
  | badFrame p => exact .of_event (fun _ => rfl) fun s => s.takeBadFrame_pending p
  | linkSilence p => exact .of_event (fun _ => rfl) fun s => s.takeSilence_pending p
  | acquireExclusive p | acquireShared p | tryExclusive p | tryShared p | inspect p | release p | releaseLatest p
  | withdraw p | misuseAccess p => exact .of_event (fun _ => rfl) fun s => s.takeOp_pending p _ _
  | frameSent | lockClockTick => exact .of_event (fun _ => rfl) fun _ => rfl
  | leaseExpiry l | waitTimeout l p => exact .of_event (fun _ => rfl) fun s => s.applyLock_pending _
  | tickClaim | issueDecision | issueSlotFreed | faultReport =>
    refine .of_event (fun _ => rfl) fun s => ?_
    split <;> rfl
  | issue =>
    refine .of_event (fun _ => rfl) fun s => ?_
    split <;> simp
  | incrementClaim =>
    refine .of_event (fun _ => rfl) fun s => ?_
    split <;> simp [State.claimHead_pending]
  | memCompletion session result data =>
    refine .of_event (fun _ => rfl) fun s => ?_
    split
    · split
      · rfl
      · exact s.complete_pending _ _ result data
    · rfl
  | portGoneClaim p =>
    refine .of_event (fun _ => rfl) fun s => ?_
    split
    · exact s.takeClaim_pending p
    · rfl
  | readAlert | setAlertMask | clearAlert | readStatus => exact .of_write (fun _ => rfl) fun _ => rfl
  | badCommandFrame | setClock | setWeight | readWindow | readSnapshot | readFault =>
    refine .of_write (fun _ => rfl) fun s => ?_
    split <;> rfl
  | defineWindow | defineLock =>
    refine .of_write (fun _ => rfl) fun s => ?_
    split
    · split <;> rfl
    · rfl
  | resetPort =>
    refine .of_write (fun _ => rfl) fun s => ?_
    split
    · rfl
    · split <;> rfl
  | enableWindow =>
    refine .of_write (fun _ => rfl) fun s => ?_
    split
    · rfl
    · split
      · rfl
      · rfl
      · split
        · rfl
        · split <;> rfl
  | disableWindow =>
    refine .of_write (fun _ => rfl) fun s => ?_
    split
    · rfl
    · split
      · rfl
      · rfl
      · split <;> rfl
  | undefineLock =>
    refine .of_write (fun _ => rfl) fun s => ?_
    split
    · rfl
    · split
      · rfl
      · split
        · rfl
        · split <;> rfl
  | repairLock =>
    refine .of_write (fun _ => rfl) fun s => ?_
    split
    · rfl
    · split
      · rfl
      · split <;> rfl
  | setPort port enable cls limit =>
    refine .of_write (fun _ => rfl) fun s => ?_
    split
    · exact s.setPortItems_pending _ _ _ limit
    · rfl
  | forceRelease lock =>
    refine .of_write (fun _ => rfl) fun s => ?_
    split
    · rfl
    · split <;> simp [State.forceRevoke_pending]
  | snapshotLock | snapshotPort =>
    refine .of_write (fun _ => rfl) fun s => ?_
    split
    · rfl
    · exact s.latch_pending _

end Sys2Proof.Machine

open Sys2Proof Sys2Proof.Machine

/-- Settles O1: the step reads the queue and hands its front command to `exec`. -/
theorem stepTakesFrontCommand : Obligations.StepTakesFrontCommand :=
  ⟨step_of_front, fun _ => step_of_idle⟩

/-- Settles O2: an event or a write gives what its effect gives, and no effect writes the queue. -/
theorem everyCommandIsTaken : Obligations.EveryCommandIsTaken := exec_keepsQueue

end

section
/-! The law of the flight table (R129, R138, Table 8-2): which events leave the table, the port counts and the arbiter's numbers in
agreement untouched, and how an issue, a completion and a decision move them together. -/

namespace Sys2Proof.Machine

/-! ### Commands that leave the links alone -/

/-- The commands that write neither ports, flight table and arbiter nor the lock unit. -/
def leavesLinks (c : Instr) : Bool :=
  match c with
  | .lockClockTick | .faultReport _ | .badCommandFrame _ | .commandWriteNak | .setClock _ => true
  | .defineWindow _ _ _ _ _ _ _ | .enableWindow _ | .disableWindow _ | .readWindow _ => true
  | .snapshotLock _ | .snapshotPort _ | .readSnapshot => true
  | .readFault | .readAlert | .setAlertMask _ | .clearAlert _ | .readStatus => true
  | _ => false

/-- From `s` to `t` ports, flight table, arbiter and lock unit stand. -/
def State.SameLinks (s t : State) : Prop :=
  t.ports = s.ports ∧ t.memPort = s.memPort ∧ t.arbiter = s.arbiter ∧ t.lockUnit = s.lockUnit

theorem State.SameLinks.refl (s : State) : s.SameLinks s := ⟨rfl, rfl, rfl, rfl⟩

theorem State.acknowledge_sameLinks (s : State) (b : Bool) : s.SameLinks (s.acknowledge b) := .refl s

theorem State.finish_sameLinks (s : State) (status : Status) (data : List Byte) : s.SameLinks (s.finish status data) := .refl s

theorem State.running_sameLinks {s : State} {k : State → State} (hk : s.SameLinks (k s)) : s.SameLinks (s.running k) := by
  rw [State.running]
  split
  · exact .refl s
  · exact hk

theorem State.command_sameLinks {s : State} {k : State → State} (hk : ∀ r : State, r.SameLinks (k r)) :
    s.SameLinks (s.command k) := by
  have htaken : s.SameLinks (k (s.acknowledge true)) := hk (s.acknowledge true)
  rw [State.command]
  split
  · exact s.acknowledge_sameLinks false
  · split
    · exact s.acknowledge_sameLinks false
    · exact htaken
    · exact htaken

theorem State.latch_sameLinks (s : State) (x : Snapshot) : s.SameLinks (s.latch x) := by
  rw [State.latch]
  split <;> exact .refl s

theorem exec_commandWriteNak_sameLinks {s t : State} (he : exec .commandWriteNak s = .next t) : s.SameLinks t := by
  have he : execCommandWriteNak s = .next t := he
  rw [execCommandWriteNak] at he
  split at he
  · obtain rfl := Host.Outcome.next.inj he
    exact s.acknowledge_sameLinks false
  · split at he <;> (obtain rfl := Host.Outcome.next.inj he; exact .refl s)

theorem exec_sameLinks {c : Instr} {s t : State} (hc : leavesLinks c = true) (he : exec c s = .next t) :
    s.SameLinks t := by
  cases c with
  | commandWriteNak => exact exec_commandWriteNak_sameLinks he
  | lockClockTick => obtain rfl := Host.Outcome.next.inj he; exact State.running_sameLinks (.refl s)
  | faultReport =>
    obtain rfl := Host.Outcome.next.inj he
    refine State.running_sameLinks ?_
    split <;> exact .refl s
  | readAlert | setAlertMask | clearAlert | readStatus =>
    obtain rfl := Host.Outcome.next.inj he
    exact State.command_sameLinks fun r => .refl r
  | badCommandFrame | setClock | readWindow | readSnapshot | readFault =>
    obtain rfl := Host.Outcome.next.inj he
    refine State.command_sameLinks fun r => ?_
    split <;> exact .refl r
  | defineWindow =>
    obtain rfl := Host.Outcome.next.inj he
    refine State.command_sameLinks fun r => ?_
    split
    · split <;> exact .refl r
    · exact .refl r
  | enableWindow =>
    obtain rfl := Host.Outcome.next.inj he
    refine State.command_sameLinks fun r => ?_
    split
    · exact .refl r
    · split
      · exact .refl r
      · exact .refl r
      · split
        · exact .refl r
        · split <;> exact .refl r
  | disableWindow =>
    obtain rfl := Host.Outcome.next.inj he
    refine State.command_sameLinks fun r => ?_
    split
    · exact .refl r
    · split
      · exact .refl r
      · exact .refl r
      · split <;> exact .refl r
  | snapshotLock | snapshotPort =>
    obtain rfl := Host.Outcome.next.inj he
    refine State.command_sameLinks fun r => ?_
    split
    · exact .refl r
    · exact r.latch_sameLinks _
  | _ => cases hc

/-- A command that takes an operation at the lock unit has the effect of its kind. -/
theorem exec_of_slotCommand {c : Instr} {p : PortId} {k : LockOpKind} (hc : slotCommand c = some (p, k)) (s : State) :
    exec c s = .next (s.running fun s => s.takeOp p k (s.slotEffect p k)) := by
  cases c with
  | acquireExclusive | acquireShared | tryExclusive | tryShared | inspect | release | releaseLatest | withdraw
  | misuseAccess => cases hc; rfl
  | _ => cases hc

/-! ### What the law reads -/

/-- The part of a flight-table entry that the law reads. -/
def FlightEntry.place (e : FlightEntry) : PortId × ReqKind := (e.port, e.kind)

/-- Two port records have the same flight counts (R129). -/
def PortRecord.SameCounts (r r' : PortRecord) : Prop := r'.flight = r.flight ∧ r'.writeFlight = r.writeFlight

/-- From `s` to `t` the flight table keeps ports and kinds in order, every port keeps its counts, no head is newly chosen, and
the arbiter's count and weight stand. -/
structure State.KeepsFlights (s t : State) : Prop where
  entries : t.memPort.table.map FlightEntry.place = s.memPort.table.map FlightEntry.place
  counts : ∀ p, (s.port p).SameCounts (t.port p)
  slot : ∀ p, t.arbiter.slot = .chosen p → s.arbiter.slot = .chosen p
  grants : t.arbiter.foreGrants = s.arbiter.foreGrants
  weight : t.arbiter.weight = s.arbiter.weight

theorem PortRecord.SameCounts.refl (r : PortRecord) : r.SameCounts r := ⟨rfl, rfl⟩

theorem PortRecord.SameCounts.trans {r r' r'' : PortRecord} (h : r.SameCounts r') (h' : r'.SameCounts r'') :
    r.SameCounts r'' :=
  ⟨h'.1.trans h.1, h'.2.trans h.2⟩

theorem State.KeepsFlights.refl (s : State) : s.KeepsFlights s := ⟨rfl, fun _ => .refl _, fun _ => id, rfl, rfl⟩

theorem State.KeepsFlights.trans {s t u : State} (h : s.KeepsFlights t) (h' : t.KeepsFlights u) : s.KeepsFlights u where
  entries := h'.entries.trans h.entries
  counts p := (h.counts p).trans (h'.counts p)
  slot p hp := h.slot p (h'.slot p hp)
  grants := h'.grants.trans h.grants
  weight := h'.weight.trans h.weight

theorem countP_port_eq (table : List FlightEntry) (p : PortId) : table.countP (fun e => e.port == p) =
    (table.map FlightEntry.place).countP (fun x => x.1 == p) := by
  rw [List.countP_map]
  rfl

theorem countP_writes_eq (table : List FlightEntry) (p : PortId) :
    table.countP (fun e => e.port == p && e.kind == .write) =
      (table.map FlightEntry.place).countP (fun x => x.1 == p && x.2 == .write) := by
  rw [List.countP_map]
  rfl

/-- The law reads nothing else (R129, R138). -/
theorem State.KeepsFlights.flightLaw {s t : State} (hk : s.KeepsFlights t) (h : s.FlightLaw) : t.FlightLaw := by
  obtain ⟨hfull, hroom, hflights, hwrites, hgrants, hlow, hhigh⟩ := h
  have hlength : t.memPort.table.length = s.memPort.table.length := by
    simpa using congrArg List.length hk.entries
  refine ⟨by rwa [hlength], fun p hp => ?_, fun p => ?_, fun p => ?_, by rwa [hk.grants], by rwa [hk.weight],
    by rwa [hk.weight]⟩
  · rw [hlength]
    exact hroom p (hk.slot p hp)
  · rw [(hk.counts p).1, hflights, countP_port_eq, countP_port_eq, hk.entries]
  · rw [(hk.counts p).2, hwrites, countP_writes_eq, countP_writes_eq, hk.entries]

/-- Ports, flight table and arbiter are all the law reads. -/
theorem State.KeepsFlights.of_same {s t : State} (hp : t.ports = s.ports) (hm : t.memPort = s.memPort)
    (ha : t.arbiter = s.arbiter) : s.KeepsFlights t :=
  ⟨by rw [hm], fun p => by rw [State.port, State.port, hp]; exact .refl _, fun p h => by rwa [ha] at h, by rw [ha], by rw [ha]⟩

theorem State.SameLinks.keepsFlights {s t : State} (h : s.SameLinks t) : s.KeepsFlights t := by
  obtain ⟨hp, hm, ha, -⟩ := h
  exact .of_same hp hm ha

/-- One port is written with its counts as they were, and nothing else that the law reads. -/
theorem State.KeepsFlights.of_setPort {s t : State} {p : PortId} {r : PortRecord} (hp : t.ports = (s.setPort p r).ports)
    (hm : t.memPort = s.memPort) (ha : t.arbiter = s.arbiter) (hr : (s.port p).SameCounts r) : s.KeepsFlights t := by
  refine .trans (t := s.setPort p r) ⟨rfl, fun q => ?_, fun _ => id, rfl, rfl⟩ (.of_same hp hm ha)
  rw [State.port_setPort]
  split
  · subst q
    exact hr
  · exact .refl _

theorem State.setPort_keepsFlights {s : State} {p : PortId} {r : PortRecord} (hr : (s.port p).SameCounts r) :
    s.KeepsFlights (s.setPort p r) :=
  .of_setPort rfl rfl rfl hr

/-- The same port written on both sides. -/
theorem State.KeepsFlights.setPort {s t : State} (h : s.KeepsFlights t) (p : PortId) {r r' : PortRecord}
    (hr : r.SameCounts r') : (s.setPort p r).KeepsFlights (t.setPort p r') := by
  refine ⟨h.entries, fun q => ?_, h.slot, h.grants, h.weight⟩
  rw [State.port_setPort, State.port_setPort]
  split
  · exact hr
  · exact h.counts q

/-! ### What keeps the flight counts -/

theorem State.report_keepsFlights (s : State) (src : FaultSource) (fs : List FaultInfo) :
    s.KeepsFlights (s.report src fs) :=
  .of_same (s.report_ports src fs) (s.report_memPort src fs) (s.report_arbiter src fs)

theorem State.applyLock_keepsFlights (s : State) (e : LockEffect) : s.KeepsFlights (s.applyLock e) := by
  have hrest := s.applyLock_eq e
  refine ⟨by rw [hrest], fun p => ?_, fun p h => by rwa [hrest] at h, by rw [hrest], by rw [hrest]⟩
  rw [State.applyLock_port]
  exact .refl _

theorem State.advance_keepsFlights (s : State) (p : PortId) (own : List Frame) : s.KeepsFlights (s.advance p own) := by
  obtain ⟨fs, n, -, h⟩ := s.advance_writes p own
  rw [h]
  exact .of_setPort rfl rfl rfl (.refl _)

theorem State.takeOp_keepsFlights (s : State) (p : PortId) (k : LockOpKind) (f : LockOp → LockEffect) :
    s.KeepsFlights (s.takeOp p k f) := by
  have htaken : s.KeepsFlights (s.setPort p { s.port p with handed := none, stale := false }) :=
    State.setPort_keepsFlights (.refl _)
  rw [State.takeOp]
  split
  · exact .refl s
  · split
    · exact (htaken.trans (State.applyLock_keepsFlights _ _)).trans (State.advance_keepsFlights _ p _)
    · exact .refl s

theorem PortRecord.sendNotice_sameCounts (r : PortRecord) (n : Notice) : r.SameCounts (r.sendNotice n) := by
  rw [PortRecord.sendNotice]
  split <;> exact .refl r

theorem PortRecord.reset_sameCounts (r : PortRecord) (close : Bool) : r.SameCounts (r.reset close) := by
  rw [PortRecord.reset]
  split
  · exact PortRecord.sendNotice_sameCounts _ _
  · exact .refl r

theorem PortRecord.sent_sameCounts (r : PortRecord) : r.SameCounts r.sent := by
  rw [PortRecord.sent]
  split <;> exact .refl r

theorem PortRecord.openFence_sameCounts (r : PortRecord) : r.SameCounts r.openFence := by
  rw [PortRecord.openFence]
  split
  · split <;> exact .refl r
  all_goals exact .refl r

/-- Detached entries keep their ports and kinds (R148). -/
theorem detach_place (p : PortId) (table : List FlightEntry) :
    (detach p table).map FlightEntry.place = table.map FlightEntry.place := by
  rw [detach, List.map_map]
  refine List.map_congr_left fun e _ => ?_
  rw [Function.comp_apply]
  split <;> rfl

/-- The issue slot loses a chosen head of the port, or stands (R144). -/
theorem Arbiter.discard_slot {a : Arbiter} {p q : PortId} (h : (a.discard p).slot = .chosen q) : a.slot = .chosen q := by
  rw [Arbiter.discard] at h
  split at h
  · cases h
  · exact h

theorem Arbiter.discard_shares (a : Arbiter) (p : PortId) :
    (a.discard p).foreGrants = a.foreGrants ∧ (a.discard p).weight = a.weight := by
  rw [Arbiter.discard]
  split <;> exact ⟨rfl, rfl⟩

theorem State.portReset_keepsFlights (s : State) (p : PortId) (close : Bool) : s.KeepsFlights (s.portReset p close) := by
  have hport : s.KeepsFlights (s.setPort p ((s.port p).reset close)) :=
    State.setPort_keepsFlights (PortRecord.reset_sameCounts _ close)
  obtain ⟨hgrants, hweight⟩ := s.arbiter.discard_shares p
  exact hport.trans ⟨detach_place p _, fun _ => .refl _, fun _ => Arbiter.discard_slot, hgrants, hweight⟩

theorem State.linkLoss_keepsFlights (s : State) (p : PortId) : s.KeepsFlights (s.linkLoss p) :=
  (s.report_keepsFlights _ _).trans (State.portReset_keepsFlights _ p false)

theorem State.endReset_keepsFlights (s : State) (p : PortId) : s.KeepsFlights (s.endReset p) := by
  obtain ⟨l, sup, h, -⟩ := s.endReset_writes p
  rw [h]
  exact .of_setPort rfl rfl rfl (.refl _)

theorem State.takeOpen_keepsFlights (s : State) (p : PortId) : s.KeepsFlights (s.takeOpen p) := by
  have hnotice := (s.port p).sendNotice_sameCounts
  rw [State.takeOpen]
  dsimp only
  split
  · split
    · exact State.setPort_keepsFlights (hnotice .openAck)
    · exact State.setPort_keepsFlights (hnotice .openNak)
  · exact State.setPort_keepsFlights (hnotice .openAck)
  · exact .refl s

theorem State.takeClose_keepsFlights (s : State) (p : PortId) : s.KeepsFlights (s.takeClose p) := by
  rw [State.takeClose]
  split
  · exact State.setPort_keepsFlights ((s.port p).sendNotice_sameCounts .close)
  · exact s.portReset_keepsFlights p true
  · exact .refl s

theorem State.takeSilence_keepsFlights (s : State) (p : PortId) : s.KeepsFlights (s.takeSilence p) := by
  rw [State.takeSilence]
  split
  · exact s.linkLoss_keepsFlights p
  · exact .refl s
  · exact .refl s

theorem State.takeBadFrame_keepsFlights (s : State) (p : PortId) : s.KeepsFlights (s.takeBadFrame p) := by
  rw [State.takeBadFrame]
  dsimp only
  split
  · exact State.setPort_keepsFlights ((s.port p).sendNotice_sameCounts _)
  · exact .refl s
  · have hcounted : s.KeepsFlights (s.setPort p (({ s.port p with
        receiveCount := (s.port p).receiveCount + 1, badCount := (s.port p).badCount + 1 } : PortRecord).sendNotice
          (.resend ((s.port p).receiveCount + 1)))) :=
      State.setPort_keepsFlights (.trans (.refl _) (PortRecord.sendNotice_sameCounts _ _))
    split
    · exact hcounted.trans (State.linkLoss_keepsFlights _ p)
    · exact hcounted

theorem State.refuseRequest_keepsFlights (s : State) (p : PortId) (tag : Tag) (addr : Word) (reason : ProtocolReason) :
    s.KeepsFlights (s.refuseRequest p tag addr reason) :=
  .trans (State.setPort_keepsFlights (PortRecord.sendNotice_sameCounts _ _)) (State.report_keepsFlights _ _ _)

theorem State.acceptRequest_keepsFlights (s : State) (p : PortId) (q : Request) : s.KeepsFlights (s.acceptRequest p q) := by
  rw [State.acceptRequest]
  refine .trans (State.setPort_keepsFlights ?_) (State.advance_keepsFlights _ p [])
  exact .refl _

theorem State.takeRequest_keepsFlights (s : State) (p : PortId) (kind : BitVec 4) (tag : Tag) (size : Byte) (addr : Word)
    (data : List Byte) : s.KeepsFlights (s.takeRequest p kind tag size addr data) := by
  have hgood : s.KeepsFlights (s.setPort p (s.port p).goodFrame) := State.setPort_keepsFlights (.refl _)
  rw [State.takeRequest]
  split
  · exact s.refuseRequest_keepsFlights p tag addr _
  · exact .refl s
  · dsimp only
    split
    · exact hgood.trans (State.refuseRequest_keepsFlights _ p tag addr _)
    · exact hgood.trans (State.acceptRequest_keepsFlights _ p _)

/-- A dropped head frees the slot (R143). -/
theorem State.dropHead_keepsFlights (s : State) (p : PortId) (q : Request) : s.KeepsFlights (s.dropHead p q) := by
  have hgone : s.KeepsFlights (s.setPort p { s.port p with queue := (s.port p).queue.tail, headClass := none }) :=
    State.setPort_keepsFlights (.refl _)
  rw [State.dropHead]
  refine .trans (hgone.trans ?_) (State.advance_keepsFlights _ p _)
  exact ⟨rfl, fun _ => .refl _, fun _ h => (by cases h), rfl, rfl⟩

theorem State.takeClaim_keepsFlights (s : State) (p : PortId) : s.KeepsFlights (s.takeClaim p) := by
  have htaken := s.applyLock_keepsFlights (s.lockUnit.claim p)
  rw [State.takeClaim]
  refine .trans (htaken.trans ?_) (State.endReset_keepsFlights _ p)
  exact State.setPort_keepsFlights (.refl _)

theorem State.setPortItems_keepsFlights (s : State) (p : PortId) (enabled : Bool) (cls : PortClass) (limit : BitVec 16) :
    s.KeepsFlights (s.setPortItems p enabled cls limit) := by
  have hwritten : s.KeepsFlights (s.setPort p { s.port p with enabled := enabled, cls := cls, waitLimit := limit }) :=
    State.setPort_keepsFlights (.refl _)
  rw [State.setPortItems]
  dsimp only
  split
  · exact hwritten.trans (State.portReset_keepsFlights _ p true)
  · exact hwritten

theorem State.forceRevoke_flightLaw {s : State} (h : s.FlightLaw) (l : LockId) : (s.forceRevoke l).FlightLaw :=
  (s.applyLock_keepsFlights (s.lockUnit.revoke l)).flightLaw h

/-! ### Table and counts move together -/

/-- A chosen head has room in the flight table (R139). -/
theorem State.FlightLaw.room_of_chosenHead {s : State} (h : s.FlightLaw) {x : PortId × Request × HeadClass}
    (hc : s.chosenHead = some x) : s.memPort.table.length < 16 := by
  obtain ⟨-, hroom, -⟩ := h
  rw [State.chosenHead] at hc
  split at hc
  · cases hc
  · cases hc
  · exact hroom _ ‹_›

/-- A request is issued into a table with room: its entry joins, and its port's counts rise (R129, R142). -/
theorem State.FlightLaw.issueHead {s : State} (h : s.FlightLaw) (hroom : s.memPort.table.length < 16) (p : PortId)
    (q : Request) (guard : Option LockId) : (s.issueHead p q guard).FlightLaw := by
  obtain ⟨-, -, hflights, hwrites, hshares⟩ := h
  refine (State.advance_keepsFlights _ p _).flightLaw ⟨?_, fun _ hp => (by cases hp), fun r => ?_, fun r => ?_, hshares⟩
  · simpa using hroom
  · show ((s.setPort p ((s.port p).issued q)).port r).flight = _
    rw [List.countP_append, List.countP_singleton, ← hflights, State.port_setPort]
    by_cases hr : r = p
    · subst hr
      simp [PortRecord.issued]
    · simp [hr, Ne.symm hr]
  · show ((s.setPort p ((s.port p).issued q)).port r).writeFlight = _
    rw [List.countP_append, List.countP_singleton, ← hwrites, State.port_setPort]
    by_cases hr : r = p
    · subst hr
      cases hk : q.kind <;> simp [PortRecord.issued, hk]
    · simp [hr, Ne.symm hr]

theorem State.FlightLaw.claimHead {s : State} (h : s.FlightLaw) (hroom : s.memPort.table.length < 16) (p : PortId)
    (q : Request) (l : LockId) (w : WindowId) (policy : WritePolicy) : (s.claimHead p q l w policy).FlightLaw := by
  have hreported := s.report_keepsFlights .lockUnit
    [guardFault .guardWrite p q.tag w q.addr l (s.lockUnit.lock l).generation]
  rw [State.claimHead]
  split
  · exact State.FlightLaw.issueHead (s := s.setUnit (s.lockUnit.countGuarded l)) h hroom p q _
  · dsimp only
    split
    · exact (hreported.flightLaw h).issueHead (by rwa [State.report_memPort]) p q none
    · exact (hreported.trans (State.dropHead_keepsFlights _ p q)).flightLaw h

/-- The oldest entry leaves the table, and its port counts it no more (R129, R145). -/
theorem State.FlightLaw.dropOldest {s : State} (h : s.FlightLaw) {e : FlightEntry} {rest : List FlightEntry}
    (ht : s.memPort.table = e :: rest) : (({ s with memPort := { s.memPort with table := rest } } : State).setPort e.port
      ((s.port e.port).completed e.kind)).FlightLaw := by
  obtain ⟨hfull, hroom, hflights, hwrites, hshares⟩ := h
  rw [ht, List.length_cons] at hfull
  refine ⟨Nat.le_of_succ_le hfull, fun r hr => ?_, fun r => ?_, fun r => ?_, hshares⟩
  · have hmany := hroom r hr
    rw [ht, List.length_cons] at hmany
    exact Nat.lt_of_succ_lt hmany
  · have hcount := hflights r
    rw [ht, List.countP_cons] at hcount
    show ((s.setPort e.port ((s.port e.port).completed e.kind)).port r).flight = rest.countP _
    rw [State.port_setPort]
    by_cases hr : r = e.port
    · subst hr
      simp [PortRecord.completed, hcount]
    · simpa [hr, Ne.symm hr] using hcount
  · have hcount := hwrites r
    rw [ht, List.countP_cons] at hcount
    show ((s.setPort e.port ((s.port e.port).completed e.kind)).port r).writeFlight = rest.countP _
    rw [State.port_setPort]
    by_cases hr : r = e.port
    · subst hr
      cases hk : e.kind <;> simp [PortRecord.completed, hcount, hk]
    · simpa [hr, Ne.symm hr] using hcount

/-- The completion of the oldest entry (R145 to R147). -/
theorem State.FlightLaw.complete {s : State} (h : s.FlightLaw) {e : FlightEntry} {rest : List FlightEntry}
    (ht : s.memPort.table = e :: rest) (result : MemResult) (data : List Byte) :
    (s.complete e rest result data).FlightLaw := by
  have hdropped := h.dropOldest ht
  rw [State.complete]
  dsimp only
  split
  · rename_i hk
    rw [hk] at hdropped
    have hframes : ∀ (r : State) (fs : List Frame), r.KeepsFlights (r.formFrames e.port fs) :=
      fun r fs => .of_setPort rfl rfl rfl (.refl _)
    refine State.KeepsFlights.flightLaw (.trans ?_ (State.endReset_keepsFlights _ e.port)) hdropped
    exact (hframes _ _).trans (State.report_keepsFlights _ _ _)
  · rename_i hk
    rw [hk] at hdropped
    rw [State.completeWrite]
    split
    · refine State.KeepsFlights.flightLaw (.trans ?_ (State.endReset_keepsFlights _ e.port)) hdropped
      refine (State.report_keepsFlights _ _ _).setPort e.port ?_
      rw [State.report_port]
      exact PortRecord.openFence_sameCounts _
    · refine State.KeepsFlights.flightLaw (.trans ?_ (State.endReset_keepsFlights _ e.port)) hdropped
      refine (State.applyLock_keepsFlights _ _).setPort e.port ?_
      rw [State.applyLock_port]
      exact .trans (.refl _) (PortRecord.openFence_sameCounts _)

/-- A port that is picked has room in the flight table (R139, R141). -/
theorem State.room_of_pick {s : State} {c : PortClass} {start p : PortId} (h : s.pick c start = some p) :
    s.memPort.table.length < 16 := by
  have heligible := List.find?_some h
  simp only [State.eligibleIn, State.eligible, Bool.and_eq_true, decide_eq_true_eq] at heligible
  exact heligible.2.2

/-- A decision keeps the fore-grant count within the weight, and chooses only with room (R139 to R141). -/
theorem State.FlightLaw.decide {s : State} (h : s.FlightLaw) : ({ s with
    arbiter := s.arbiter.decision (s.pick .fore s.arbiter.fore) (s.pick .back s.arbiter.back) } : State).FlightLaw := by
  obtain ⟨hfull, hroom, hflights, hwrites, hgrants, hlow, hhigh⟩ := h
  have hrest : ∀ a : Arbiter, (∀ p, a.slot = .chosen p → s.memPort.table.length < 16) → a.foreGrants ≤ 8 →
      a.weight = s.arbiter.weight → ({ s with arbiter := a } : State).FlightLaw := by
    intro a hslot hcount hweight
    exact ⟨hfull, hslot, hflights, hwrites, hcount, by rwa [hweight], by rwa [hweight]⟩
  cases hf : s.pick .fore s.arbiter.fore with
  | none =>
    cases hb : s.pick .back s.arbiter.back with
    | none => exact hrest _ hroom hgrants rfl
    | some b => exact hrest _ (fun _ _ => State.room_of_pick hb) (Nat.zero_le _) rfl
  | some f =>
    have hfore := State.room_of_pick hf
    cases hb : s.pick .back s.arbiter.back with
    | none => exact hrest _ (fun _ _ => hfore) (Nat.zero_le _) rfl
    | some b =>
      rw [Arbiter.decision]
      split
      · exact hrest _ (fun _ _ => hfore) (Nat.zero_le _) rfl
      · exact hrest _ (fun _ _ => hfore) (by simp only [Arbiter.chooseFore]; omega) rfl

theorem State.powerOnValues_flightLaw (s : State) (low : Bool) (straps : BitVec 3) (session : Nat) :
    (s.powerOnValues low straps session).FlightLaw := State.FlightLaw.atReset

/-! ### Every command -/

/-- An event keeps the law when its effect does. -/
theorem flightLaw_of_running {s t : State} {k : State → State}
    (he : (.next (s.running k) : Host.Outcome State Fault Refusal) = .next t) (h : s.FlightLaw)
    (hk : s.FlightLaw → (k s).FlightLaw) : t.FlightLaw := by
  obtain rfl := Host.Outcome.next.inj he
  rw [State.running]
  split
  · exact h
  · exact hk h

/-- A command keeps the law when its effect does. -/
theorem flightLaw_of_command {s t : State} {k : State → State}
    (he : (.next (s.command k) : Host.Outcome State Fault Refusal) = .next t) (h : s.FlightLaw)
    (hk : ∀ r : State, r.FlightLaw → (k r).FlightLaw) : t.FlightLaw := by
  obtain rfl := Host.Outcome.next.inj he
  rw [State.command]
  split
  · exact h
  · split
    · exact h
    · exact hk _ h
    · exact hk _ h

/-- An operation at the lock unit moves no flight. -/
theorem flightLaw_of_slotCommand {c : Instr} {p : PortId} {k : LockOpKind} {s t : State}
    (hc : slotCommand c = some (p, k)) (he : exec c s = .next t) (h : s.FlightLaw) : t.FlightLaw :=
  flightLaw_of_running ((exec_of_slotCommand hc s).symm.trans he) h (s.takeOp_keepsFlights p k _).flightLaw

/-- Every command keeps the law of the flight table. -/
theorem exec_flightLaw {c : Instr} {s t : State} (h : s.FlightLaw) (he : exec c s = .next t) : t.FlightLaw := by
  by_cases hc : leavesLinks c = true
  · exact (exec_sameLinks hc he).keepsFlights.flightLaw h
  cases c with
  | powerOn _ _ => obtain rfl := Host.Outcome.next.inj he; exact s.powerOnValues_flightLaw _ _ _
  | resetAssert _ => obtain rfl := Host.Outcome.next.inj he; exact s.powerOnValues_flightLaw _ _ _
  | resetRelease straps =>
    have he : execResetRelease straps s = .next t := he
    rw [execResetRelease] at he
    split at he
    · obtain rfl := Host.Outcome.next.inj he; exact s.powerOnValues_flightLaw _ _ _
    · obtain rfl := Host.Outcome.next.inj he; exact h
  | openFrame p => exact flightLaw_of_running he h (s.takeOpen_keepsFlights p).flightLaw
  | closeFrame p => exact flightLaw_of_running he h (s.takeClose_keepsFlights p).flightLaw
  | request p kind tag size addr data =>
    refine flightLaw_of_running he h (State.KeepsFlights.flightLaw ?_)
    split
    · exact s.takeRequest_keepsFlights p kind tag size addr data
    · exact s.takeBadFrame_keepsFlights p
  | badFrame p => exact flightLaw_of_running he h (s.takeBadFrame_keepsFlights p).flightLaw
  | linkSilence p => exact flightLaw_of_running he h (s.takeSilence_keepsFlights p).flightLaw
  | frameSent p =>
    exact flightLaw_of_running he h (State.setPort_keepsFlights (s.port p).sent_sameCounts).flightLaw
  | acquireExclusive | acquireShared | tryExclusive | tryShared | inspect | release | releaseLatest | withdraw
  | misuseAccess => exact flightLaw_of_slotCommand rfl he h
  | tickClaim l =>
    refine flightLaw_of_running he h fun h => ?_
    split <;> exact h
  | leaseExpiry l => exact flightLaw_of_running he h (s.applyLock_keepsFlights _).flightLaw
  | waitTimeout l p => exact flightLaw_of_running he h (s.applyLock_keepsFlights _).flightLaw
  | issueDecision =>
    refine flightLaw_of_running he h fun h => ?_
    split
    · exact h.decide
    · exact h
  | issue =>
    refine flightLaw_of_running he h fun h => ?_
    split
    · exact h.issueHead (h.room_of_chosenHead ‹_›) _ _ none
    · exact h.issueHead (h.room_of_chosenHead ‹_›) _ _ none
    · exact h
    · exact h
    · exact h
  | incrementClaim =>
    refine flightLaw_of_running he h fun h => ?_
    split
    · exact h.claimHead (h.room_of_chosenHead ‹_›) _ _ _ _ _
    · exact h
    · exact h
    · exact h
    · exact h
  | issueSlotFreed =>
    refine flightLaw_of_running he h (State.KeepsFlights.flightLaw ?_)
    split
    · exact ⟨rfl, fun _ => .refl _, fun _ hp => (by cases hp), rfl, rfl⟩
    · exact .refl s
    · exact .refl s
  | memCompletion session result data =>
    refine flightLaw_of_running he h fun h => ?_
    split
    · split
      · exact h
      · exact h.complete ‹_› result data
    · exact h
  | portGoneClaim p =>
    refine flightLaw_of_running he h (State.KeepsFlights.flightLaw ?_)
    split
    · exact s.takeClaim_keepsFlights p
    · exact .refl s
  | setPort port enable cls limit =>
    refine flightLaw_of_command he h fun r hr => ?_
    split
    · exact (r.setPortItems_keepsFlights _ _ _ limit).flightLaw hr
    · exact hr
  | setWeight k =>
    refine flightLaw_of_command he h fun r hr => ?_
    split
    · rename_i hk
      obtain ⟨hfull, hroom, hflights, hwrites, hgrants, -⟩ := hr
      exact ⟨hfull, hroom, hflights, hwrites, hgrants, hk⟩
    · exact hr
  | resetPort port =>
    refine flightLaw_of_command he h fun r hr => ?_
    split
    · exact hr
    · rename_i p _
      split
      · exact hr
      · exact (r.portReset_keepsFlights p true).flightLaw hr
      · exact hr
  | defineLock =>
    refine flightLaw_of_command he h fun r hr => ?_
    split
    · split <;> exact hr
    · exact hr
  | undefineLock =>
    refine flightLaw_of_command he h fun r hr => ?_
    split
    · exact hr
    · split
      · exact hr
      · split
        · exact hr
        · split <;> exact hr
  | forceRelease =>
    refine flightLaw_of_command he h fun r hr => ?_
    split
    · exact hr
    · split
      · exact State.forceRevoke_flightLaw hr _
      · exact State.forceRevoke_flightLaw hr _
      all_goals exact hr
  | repairLock =>
    refine flightLaw_of_command he h fun r hr => ?_
    split
    · exact hr
    · split
      · exact hr
      · split <;> exact hr
  | _ => exact absurd rfl hc

end Sys2Proof.Machine

open Sys2Proof Sys2Proof.Machine

/-- Settles O55: an entry joins or leaves the table together with its port's counts, and a head is chosen only with room. -/
theorem flightLawKept : Obligations.FlightLawKept := by
  intro s t h hstep
  rw [step] at hstep
  split at hstep
  · obtain rfl := Host.Outcome.next.inj hstep
    exact h
  · rename_i c rest _
    exact exec_flightLaw (s := { s with pending := rest }) h hstep

end

section
/-! The law of a port's record as the tags and the session see it (R119, R120, R126, R133, R148, R152, R153): the law of one port in
terms of what it reads beside the record, and what each write of a record does to it. -/

namespace Sys2Proof.Machine

/-! ### Outstanding tags and their places -/

/-- The outstanding set holds exactly the tags of a list without repetition (R126). -/
def TagsAre (outstanding : BitVec 16) (places : List Tag) : Prop :=
  places.Nodup ∧ ∀ t : Tag, outstanding.getLsbD t.val = true ↔ t ∈ places

theorem TagsAre.perm {o : BitVec 16} {l l' : List Tag} (h : TagsAre o l) (hp : l.Perm l') : TagsAre o l' :=
  ⟨hp.nodup_iff.1 h.1, fun t => (h.2 t).trans hp.mem_iff⟩

theorem tagsAre_zero {l : List Tag} : TagsAre 0 l ↔ l = [] := by
  constructor
  · rintro ⟨-, hmem⟩
    exact List.eq_nil_iff_forall_not_mem.2 fun t ht => by simpa using (hmem t).2 ht
  · rintro rfl
    exact ⟨List.nodup_nil, fun t => by simp⟩

/-- A tag that is not outstanding joins the set with a place. -/
theorem TagsAre.add {o : BitVec 16} {l : List Tag} (h : TagsAre o l) {t : Tag} (ht : o.getLsbD t.val = false) :
    TagsAre (o ||| BitVec.twoPow 16 t.val) (t :: l) := by
  refine ⟨List.nodup_cons.2 ⟨fun hm => ?_, h.1⟩, fun x => ?_⟩
  · rw [(h.2 t).2 hm] at ht
    cases ht
  · have hbit : (BitVec.twoPow 16 t.val).getLsbD x.val = decide (x = t) := by
      simp [Fin.ext_iff, eq_comm]
    rw [BitVec.getLsbD_or, Bool.or_eq_true, h.2, hbit, decide_eq_true_eq, List.mem_cons, or_comm]

/-- A tag leaves the set with its one place. -/
theorem TagsAre.drop {o : BitVec 16} {l : List Tag} {t : Tag} (h : TagsAre o (t :: l)) :
    TagsAre (o &&& ~~~(BitVec.twoPow 16 t.val)) l := by
  obtain ⟨hnodup, hmem⟩ := h
  obtain ⟨hnot, hnodup⟩ := List.nodup_cons.1 hnodup
  refine ⟨hnodup, fun x => ?_⟩
  have hbit : (BitVec.twoPow 16 t.val).getLsbD x.val = decide (x = t) := by
    simp [Fin.ext_iff, eq_comm]
  rw [BitVec.getLsbD_and, BitVec.getLsbD_not, hbit, Bool.and_eq_true, hmem, List.mem_cons]
  by_cases hx : x = t
  · subst hx
    simp [hnot]
  · simp [hx]

/-- How often a tag has a place. -/
theorem PortRecord.count_tagPlaces (r : PortRecord) (waits flights : List Tag) (t : Tag) :
    (r.tagPlaces waits flights).count t = (r.queue.map Request.tag).count t + r.handedTags.count t +
      (if r.link = .online then waits else []).count t + flights.count t +
        (r.sendList.filterMap Frame.responseTag).count t := by
  simp only [PortRecord.tagPlaces, List.count_append]

/-! ### The law of one port -/

/-- The law of a port's record, given what it reads elsewhere: the tag of the port's waiter record, the tags of its attached reads
in flight, whether the lock unit holds neither entry nor wait of the port, and whether its flight-table entries are detached. -/
structure PortRecord.Sound (r : PortRecord) (waits flights : List Tag) (gone detached : Prop) : Prop where
  record : r.Law
  tags : TagsAre r.outstanding (r.tagPlaces waits flights)
  fence : ∀ op, r.headClass = some (.heldRelease op) → r.queue.head?.map Request.tag = some op.tag
  closed : r.link ≠ .online → r.outstanding = 0 ∧ detached ∧ (r.handed ≠ none → r.stale = true)
  landed : r.link = .offline → r.flight = 0 ∧ r.writeFlight = 0
  stale : r.stale = true → r.handed ≠ none
  ended : r.claimDue = false → r.link ≠ .online ∨ r.stale = true →
    gone ∧ ∀ op, r.handed = some op → op.kind.claimMayPass = true

/-- The lock unit holds neither an entry nor a wait of the port (R153). -/
def LockUnit.Without (u : LockUnit) (p : PortId) : Prop := u.held p = [] ∧ u.wait p = none

/-- Every flight-table entry of the port is detached (R148). -/
def State.Detached (s : State) (p : PortId) : Prop := ∀ e ∈ s.memPort.table, e.port = p → e.tag = none

/-- A port without a wait has no waiting tag. -/
theorem LockUnit.Without.waitTags {u : LockUnit} {p : PortId} (h : u.Without p) : u.waitTags p = [] :=
  LockUnit.waitTags_of_none h.2

@[simp] theorem Frame.responseTag_response (t : Tag) (result : RespResult) (data : List Byte) :
    (Frame.response t result data).responseTag = some t := rfl

@[simp] theorem Frame.responseTag_notice (n : Notice) : (Frame.notice n).responseTag = none := rfl

@[simp] theorem Frame.isNotice_response (t : Tag) (result : RespResult) (data : List Byte) :
    (Frame.response t result data).isNotice = false := rfl

@[simp] theorem Frame.isNotice_notice (n : Notice) : (Frame.notice n).isNotice = true := rfl

/-- The tags that unsent RESPONSEs carry, as many as there are RESPONSEs. -/
theorem countP_responses (fs : List Frame) :
    fs.countP (fun f => !f.isNotice) = (fs.filterMap Frame.responseTag).length := by
  induction fs with
  | nil => rfl
  | cons f fs ih =>
    cases f <;> simp [List.filterMap_cons, ih]

/-- R126's further clauses follow from where the tags stand. -/
theorem State.tagLaw_iff (s : State) (p : PortId) : s.TagLaw p ↔ TagsAre (s.port p).outstanding (s.tagPlaces p) ∧
    ∀ op, (s.port p).headClass = some (.heldRelease op) → (s.port p).queue.head?.map Request.tag = some op.tag := by
  constructor
  · rintro ⟨hnodup, hmem, -, -, -, hfence⟩
    exact ⟨⟨hnodup, hmem⟩, hfence⟩
  · rintro ⟨⟨hnodup, hmem⟩, hfence⟩
    refine ⟨hnodup, hmem, fun q hq => (hmem _).2 ?_, fun f hf t ht => (hmem t).2 ?_, ?_, hfence⟩
    · simp only [State.tagPlaces, PortRecord.tagPlaces, List.mem_append, List.mem_map]
      exact .inl (.inl (.inl (.inl ⟨q, hq, rfl⟩)))
    · simp only [State.tagPlaces, PortRecord.tagPlaces, List.mem_append, List.mem_filterMap]
      exact .inr ⟨f, hf, ht⟩
    · rw [countP_responses]
      have hresponses : ((s.port p).sendList.filterMap Frame.responseTag).Nodup := (List.nodup_append.1 hnodup).2.1
      simpa using hresponses.length_le_card

/-- The law of a port is that of its record. -/
theorem State.portLaw_iff (s : State) : s.PortLaw ↔ ∀ p, (s.port p).Sound (s.lockUnit.waitTags p) (s.flightTags p)
    (s.lockUnit.Without p) (s.Detached p) := by
  refine forall_congr' fun p => ?_
  constructor
  · rintro ⟨hrecord, ⟨hclosed, hlanded, hstale, hended⟩, htags⟩
    obtain ⟨htags, hfence⟩ := (s.tagLaw_iff p).1 htags
    refine ⟨hrecord, htags, hfence, hclosed, hlanded, hstale, fun hc hl => ?_⟩
    obtain ⟨hheld, hwait, hpass⟩ := hended hc hl
    exact ⟨⟨hheld, hwait⟩, hpass⟩
  · rintro ⟨hrecord, htags, hfence, hclosed, hlanded, hstale, hended⟩
    refine ⟨hrecord, ⟨hclosed, hlanded, hstale, fun hc hl => ?_⟩, (s.tagLaw_iff p).2 ⟨htags, hfence⟩⟩
    obtain ⟨⟨hheld, hwait⟩, hpass⟩ := hended hc hl
    exact ⟨hheld, hwait, hpass⟩

section
variable {r : PortRecord} {waits waits' flights flights' : List Tag} {gone gone' detached detached' : Prop}

namespace PortRecord.Sound

/-! ### What a sound record says -/

theorem online_of_queue (h : r.Sound waits flights gone detached) (hq : r.queue ≠ []) : r.link = .online := by
  obtain ⟨-, -, -, hqueue, -⟩ := h.record
  exact not_not.1 fun hl => hq (hqueue hl)

theorem claim_of_link (h : r.Sound waits flights gone detached) (hl : r.link ≠ .resetting) : r.claimDue = false := by
  obtain ⟨-, -, -, -, hclaim, -⟩ := h.record
  exact Bool.eq_false_iff.2 fun hc => hl (hclaim hc)

/-- While a head waits nothing of the port is at the lock unit (R128). -/
theorem of_head (h : r.Sound waits flights gone detached) (hc : r.headClass ≠ none) :
    r.link = .online ∧ r.handed = none ∧ r.stale = false := by
  obtain ⟨-, -, -, -, -, hhead⟩ := h.record
  obtain ⟨hqueue, hhanded⟩ := hhead hc
  exact ⟨h.online_of_queue hqueue, hhanded, Bool.eq_false_iff.2 fun hs => h.stale hs hhanded⟩

/-- An operation of the session now open is one of an ONLINE port. -/
theorem online_of_handed (h : r.Sound waits flights gone detached) (hh : r.handed ≠ none) (hs : r.stale = false) :
    r.link = .online := by
  by_contra hl
  obtain ⟨-, -, hstale⟩ := h.closed hl
  exact Bool.false_ne_true (hs.symm.trans (hstale hh))

/-- Outside ONLINE no tag has a place. -/
theorem tagPlaces_of_closed (h : r.Sound waits flights gone detached) (hl : r.link ≠ .online) :
    r.tagPlaces waits flights = [] := by
  obtain ⟨ho, -⟩ := h.closed hl
  have htags := h.tags
  rwa [ho, tagsAre_zero] at htags

/-! ### Tags changing places -/

/-- Tags move between the places that the record does not hold. -/
theorem regroup (h : r.Sound waits flights gone detached)
    (hp : ((if r.link = .online then waits else []) ++ flights).Perm ((if r.link = .online then waits' else []) ++ flights'))
    (hg : gone → gone') (hd : r.link ≠ .online → detached → detached') : r.Sound waits' flights' gone' detached' := by
  refine ⟨h.record, h.tags.perm (List.perm_iff_count.2 fun t => ?_), h.fence, fun hl => ?_, h.landed, h.stale,
    fun hc hl => (h.ended hc hl).imp_left hg⟩
  · have hcount := List.perm_iff_count.1 hp t
    rw [List.count_append, List.count_append] at hcount
    rw [r.count_tagPlaces, r.count_tagPlaces]
    omega
  · obtain ⟨ho, hdet, hhanded⟩ := h.closed hl
    exact ⟨ho, hd hl hdet, hhanded⟩

/-- RESPONSEs join the send list: the tags on their way have their place there (R126, R133). -/
theorem form {loose : List Tag} (h : r.Sound waits (loose ++ flights) gone detached) {fs : List Frame}
    (hn : ∀ f ∈ fs, f.isNotice = false) (hp : (fs.filterMap Frame.responseTag).Perm loose) :
    PortRecord.Sound { r with sendList := r.sendList ++ fs } waits flights gone detached := by
  obtain ⟨hnotices, hrest⟩ := h.record
  have hnone : fs.countP Frame.isNotice = 0 := List.countP_eq_zero.2 fun f hf => by simp [hn f hf]
  refine ⟨⟨?_, hrest⟩, h.tags.perm (List.perm_iff_count.2 fun t => ?_), h.fence, h.closed, h.landed, h.stale, h.ended⟩
  · show (r.sendList ++ fs).countP Frame.isNotice ≤ 8
    rwa [List.countP_append, hnone]
  · rw [r.count_tagPlaces, PortRecord.count_tagPlaces, List.filterMap_append, List.count_append, List.count_append,
      List.perm_iff_count.1 hp t]
    simp only [PortRecord.handedTags]
    omega

/-! ### Notices, links and sessions -/

/-- A NOTICE carries no tag, and the ninth is not appended (R133). -/
theorem sendNotice (h : r.Sound waits flights gone detached) (n : Notice) :
    (r.sendNotice n).Sound waits flights gone detached := by
  rw [PortRecord.sendNotice]
  split
  · rename_i hroom
    obtain ⟨-, hrest⟩ := h.record
    refine ⟨⟨?_, hrest⟩, ?_, h.fence, h.closed, h.landed, h.stale, h.ended⟩
    · show (r.sendList ++ [Frame.notice n]).countP Frame.isNotice ≤ 8
      rw [List.countP_append]
      exact hroom
    · have htags := h.tags
      simpa [PortRecord.tagPlaces, PortRecord.handedTags, List.filterMap_cons] using htags
  · exact h

/-- Frame counts and supervisor settings are no part of the law while a disabled port is not ONLINE (R122, R135). -/
theorem counted (h : r.Sound waits flights gone detached) {bad : Nat} (hb : bad < 8) (received : BitVec 8) :
    PortRecord.Sound { r with badCount := bad, receiveCount := received } waits flights gone detached := by
  obtain ⟨hnotices, -, hrest⟩ := h.record
  exact ⟨⟨hnotices, hb, hrest⟩, h.tags, h.fence, h.closed, h.landed, h.stale, h.ended⟩

theorem items (h : r.Sound waits flights gone detached) {enabled : Bool} (he : enabled = false → r.link ≠ .online)
    (cls : PortClass) (limit : BitVec 16) :
    PortRecord.Sound { r with enabled := enabled, cls := cls, waitLimit := limit } waits flights gone detached := by
  obtain ⟨hnotices, hbad, -, hrest⟩ := h.record
  exact ⟨⟨hnotices, hbad, he, hrest⟩, h.tags, h.fence, h.closed, h.landed, h.stale, h.ended⟩

/-- A good OPEN at an enabled OFFLINE port begins a session without tags (R120). -/
theorem opened (h : r.Sound waits flights gone detached) (hl : r.link = .offline) (he : r.enabled = true)
    (hg : gone → waits = []) :
    PortRecord.Sound { r with link := .online, badCount := 0, receiveCount := 0 } waits flights gone detached := by
  obtain ⟨hnotices, -, -, hqueue, hclaim, hhead⟩ := h.record
  have hoffline : r.link ≠ .online := by simp [hl]
  have hdue : r.claimDue = false := h.claim_of_link (by simp [hl])
  obtain ⟨hgone, hpass⟩ := h.ended hdue (.inl hoffline)
  refine ⟨⟨hnotices, Nat.zero_lt_succ 7, fun hd => ?_, fun ho => absurd rfl ho, fun hc => ?_, hhead⟩, ?_, h.fence,
    fun ho => absurd rfl ho, fun ho => (by cases ho), h.stale, fun _ _ => ⟨hgone, hpass⟩⟩
  · exact absurd (hd.symm.trans he) Bool.false_ne_true
  · exact absurd (hdue.symm.trans hc) Bool.false_ne_true
  · have htags := h.tags
    simpa [PortRecord.tagPlaces, PortRecord.handedTags, hl, hg hgone] using htags

/-- A port reset ends the session: no tag is left, and an operation still at the lock unit is one of an ended session (R152). -/
theorem reset (hnotices : r.sendList.countP Frame.isNotice ≤ 8) (close : Bool) {detached : Prop} (hdet : detached) :
    (r.reset close).Sound waits [] gone detached := by
  have hkept : PortRecord.Sound { r with
      link := .resetting, claimDue := true, queue := [], headClass := none, stale := r.handed.isSome, outstanding := 0,
      sendList := r.sendList.filter Frame.isNotice, badCount := 0, receiveCount := 0 } waits [] gone detached := by
    refine ⟨⟨?_, Nat.zero_lt_succ 7, fun _ => by simp, fun _ => rfl, fun _ => rfl, fun hc => absurd rfl hc⟩, ?_, fun _ hc => ?_,
      fun _ => ⟨rfl, hdet, Option.ne_none_iff_isSome.1⟩, fun hl => (by cases hl), Option.ne_none_iff_isSome.2,
      fun hc => (by cases hc)⟩
    · exact (List.filter_sublist.countP_le).trans hnotices
    · have hnone : (r.sendList.filter Frame.isNotice).filterMap Frame.responseTag = [] := by
        refine List.filterMap_eq_nil_iff.2 fun f hf => ?_
        cases f with
        | notice n => rfl
        | response t result data => simp at hf
      refine tagsAre_zero.2 ?_
      cases r.handed <;> simp [PortRecord.tagPlaces, PortRecord.handedTags, hnone]
    · cases hc
  rw [PortRecord.reset]
  split
  · exact hkept.sendNotice .close
  · exact hkept

/-- RESETTING ends with nothing in flight (R153). -/
theorem offline (h : r.Sound waits flights gone detached) (hl : r.link = .resetting) (hc : r.claimDue = false)
    (hf : r.flight = 0) (hw : r.writeFlight = 0) :
    PortRecord.Sound { r with link := .offline } waits flights gone detached := by
  have hclosed : r.link ≠ .online := by simp [hl]
  obtain ⟨hnotices, hbad, -, hqueue, -, hhead⟩ := h.record
  refine ⟨⟨hnotices, hbad, fun _ => by simp, fun _ => hqueue hclosed, fun hd => ?_, hhead⟩, ?_, h.fence,
    fun _ => h.closed hclosed, fun _ => ⟨hf, hw⟩, h.stale, fun _ _ => h.ended hc (.inl hclosed)⟩
  · exact absurd (hc.symm.trans hd) Bool.false_ne_true
  · have htags := h.tags
    simpa [PortRecord.tagPlaces, PortRecord.handedTags, hl] using htags

/-- The port-gone claim has been taken: the lock unit holds nothing of the port (R153, R154). -/
theorem claimed (h : r.Sound waits flights gone detached) (hg : gone)
    (hp : ∀ op, r.handed = some op → op.kind.claimMayPass = true) :
    PortRecord.Sound { r with claimDue := false } waits flights gone detached := by
  obtain ⟨hnotices, hbad, henabled, hqueue, -, hhead⟩ := h.record
  exact ⟨⟨hnotices, hbad, henabled, hqueue, fun hc => (by cases hc), hhead⟩, h.tags, h.fence, h.closed, h.landed, h.stale,
    fun _ _ => ⟨hg, hp⟩⟩

/-! ### Requests and their tags -/

/-- A sent RESPONSE takes its tag along (R126, R133). -/
theorem sent (h : r.Sound waits flights gone detached) : r.sent.Sound waits flights gone detached := by
  rw [PortRecord.sent]
  split
  · exact h
  · rename_i n fs hs
    obtain ⟨hnotices, hrest⟩ := h.record
    refine ⟨⟨?_, hrest⟩, ?_, h.fence, h.closed, h.landed, h.stale, h.ended⟩
    · rw [hs, List.countP_cons] at hnotices
      exact (Nat.le_add_right _ _).trans hnotices
    · have htags := h.tags
      rw [PortRecord.tagPlaces, hs] at htags
      exact htags
  · rename_i tag result data fs hs
    obtain ⟨hnotices, hrest⟩ := h.record
    refine ⟨⟨?_, hrest⟩, TagsAre.drop (h.tags.perm (List.perm_iff_count.2 fun t => ?_)), h.fence, fun hl => ?_, h.landed,
      h.stale, h.ended⟩
    · rw [hs, List.countP_cons] at hnotices
      exact (Nat.le_add_right _ _).trans hnotices
    · dsimp only [PortRecord.dropTag]
      rw [List.count_cons, r.count_tagPlaces, PortRecord.count_tagPlaces, hs, List.filterMap_cons]
      simp only [Frame.responseTag_response, List.count_cons, PortRecord.handedTags]
      omega
    · obtain ⟨ho, hrest⟩ := h.closed hl
      exact ⟨by simp [PortRecord.dropTag, ho], hrest⟩

/-- An accepted request brings its tag (R124, R126). -/
theorem accept (h : r.Sound waits flights gone detached) (hl : r.link = .online) {q : Request}
    (hq : r.hasTag q.tag = false) :
    PortRecord.Sound { r.addTag q.tag with queue := r.queue ++ [q] } waits flights gone detached := by
  obtain ⟨hnotices, hbad, henabled, -, hclaim, hhead⟩ := h.record
  refine ⟨⟨hnotices, hbad, henabled, fun ho => absurd hl ho, hclaim, fun hc => ⟨by simp, (hhead hc).2⟩⟩,
    (h.tags.add hq).perm (List.perm_iff_count.2 fun t => ?_), fun op hc => ?_, fun ho => absurd hl ho, h.landed, h.stale,
    h.ended⟩
  · dsimp only [PortRecord.addTag]
    rw [List.count_cons, r.count_tagPlaces, PortRecord.count_tagPlaces, List.map_append, List.count_append]
    simp only [List.map_cons, List.map_nil, List.count_cons, List.count_nil, PortRecord.handedTags]
    omega
  · have hfence := h.fence op hc
    show (r.queue ++ [q]).head?.map Request.tag = some op.tag
    cases hqueue : r.queue with
    | nil => simp [hqueue] at hfence
    | cons x xs => simpa [hqueue] using hfence

/-- A waiting head leaves the queue, its tag on the way elsewhere (R127, R142, R143). -/
theorem leaveHead (h : r.Sound waits flights gone detached) (hc : r.headClass ≠ none) {q : Request}
    (hq : r.queue.head? = some q) (flight writeFlight : Nat) :
    PortRecord.Sound { r with queue := r.queue.tail, headClass := none, flight := flight, writeFlight := writeFlight }
      waits (q.tag :: flights) gone detached := by
  obtain ⟨hl, -, -⟩ := h.of_head hc
  obtain ⟨hnotices, hbad, henabled, -, hclaim, -⟩ := h.record
  refine ⟨⟨hnotices, hbad, henabled, fun ho => absurd hl ho, hclaim, fun hn => absurd rfl hn⟩,
    h.tags.perm (List.perm_iff_count.2 fun t => ?_), fun _ hn => (by cases hn), fun ho => absurd hl ho, fun ho => ?_,
    h.stale, h.ended⟩
  · have hqueue : r.queue = q :: r.queue.tail := (List.cons_head?_tail hq).symm
    rw [r.count_tagPlaces, PortRecord.count_tagPlaces, hqueue, List.map_cons]
    simp only [List.count_cons, PortRecord.handedTags, List.tail_cons]
    omega
  · exact absurd (hl.symm.trans ho) (by simp)

/-- Lowered flight counts (R129, R145). -/
theorem completed (h : r.Sound waits flights gone detached) (k : ReqKind) :
    (r.completed k).Sound waits flights gone detached := by
  refine ⟨h.record, h.tags, h.fence, h.closed, fun hl => ?_, h.stale, h.ended⟩
  obtain ⟨hf, hw⟩ := h.landed hl
  cases k <;> simp [PortRecord.completed, hf, hw]

/-- The fence hands its release on under the tag that the head had (R97, R130). -/
theorem openFence (h : r.Sound waits flights gone detached) : r.openFence.Sound waits flights gone detached := by
  rw [PortRecord.openFence]
  split
  · rename_i op hc
    split
    · obtain ⟨hl, hhanded, hstale⟩ := h.of_head (by simp [hc])
      obtain ⟨hnotices, hbad, henabled, -, hclaim, -⟩ := h.record
      refine ⟨⟨hnotices, hbad, henabled, fun ho => absurd hl ho, hclaim, fun hn => absurd rfl hn⟩,
        h.tags.perm (List.perm_iff_count.2 fun t => ?_), fun _ hn => (by cases hn), fun ho => absurd hl ho, h.landed,
        fun _ => by simp, fun _ ho => ?_⟩
      · have hfence := h.fence op hc
        cases hqueue : r.queue with
        | nil => simp [hqueue] at hfence
        | cons x xs =>
          have htag : x.tag = op.tag := by simpa [hqueue] using hfence
          rw [r.count_tagPlaces, PortRecord.count_tagPlaces]
          simp [PortRecord.handedTags, hstale, hhanded, hqueue, htag, List.count_cons]
      · rcases ho with ho | ho
        · exact absurd hl ho
        · exact absurd (hstale.symm.trans ho) Bool.false_ne_true
    · exact h
  all_goals exact h

/-- The lock unit takes the operation that the port handed on: under a live session its tag is answered or waits, and an ended
session leaves nothing (R14, R128, R153). -/
theorem taken (h : r.Sound waits flights gone detached) {op : LockOp} (hh : r.handed = some op) {answered : List Tag}
    (hp : (waits ++ [op.tag]).Perm (waits' ++ answered)) (hw : gone → waits = []) (hw' : gone' → waits' = [])
    (hg : gone → op.kind.claimMayPass = true → gone') :
    PortRecord.Sound { r with handed := none, stale := false } waits' ((if r.stale then [] else answered) ++ flights)
      gone' detached := by
  obtain ⟨hnotices, hbad, henabled, hqueue, hclaim, hhead⟩ := h.record
  have hended : r.claimDue = false → r.link ≠ .online ∨ r.stale = true → gone ∧ gone' := fun hc hl => by
    obtain ⟨hgone, hpass⟩ := h.ended hc hl
    exact ⟨hgone, hg hgone (hpass op hh)⟩
  refine ⟨⟨hnotices, hbad, henabled, hqueue, hclaim, fun hc => ⟨(hhead hc).1, rfl⟩⟩,
    h.tags.perm (List.perm_iff_count.2 fun t => ?_), h.fence, fun hl => ?_, h.landed, fun hs => (by cases hs),
    fun hc hl => ⟨(hended hc (.inl (hl.resolve_right Bool.false_ne_true))).2, fun _ hn => (by cases hn)⟩⟩
  · rw [r.count_tagPlaces, PortRecord.count_tagPlaces]
    by_cases hs : r.stale = true
    · by_cases hl : r.link = .online
      · obtain ⟨hgone, hgone'⟩ := hended (h.claim_of_link (by simp [hl])) (.inr hs)
        simp [PortRecord.handedTags, hs, hw hgone, hw' hgone']
      · simp [PortRecord.handedTags, hs, hl]
    · have hs : r.stale = false := by simpa using hs
      have hl := h.online_of_handed (by simp [hh]) hs
      have hcount := List.perm_iff_count.1 hp t
      simp only [List.count_append] at hcount
      simp only [PortRecord.handedTags, hs, hl, hh, if_true, Option.toList_some, Option.toList_none, List.map_cons,
        List.map_nil, List.count_nil, List.count_append, Bool.false_eq_true, if_false]
      omega
  · obtain ⟨ho, hdet, -⟩ := h.closed hl
    exact ⟨ho, hdet, fun hn => absurd rfl hn⟩

end PortRecord.Sound
end

end Sys2Proof.Machine
end

section
/-! The law of every port under the shared steps of an event: head handling, words handed to ports, a port reset and its end, issues,
completions and the port-gone claim; then every command (R119, R126, R152, R153). -/

namespace Sys2Proof.Machine

/-! ### One port of the part -/

/-- Port `p` is sound with the tags `loose` on their way into its send list. -/
def State.SoundAt (s : State) (p : PortId) (loose : List Tag) : Prop :=
  (s.port p).Sound (s.lockUnit.waitTags p) (loose ++ s.flightTags p) (s.lockUnit.Without p) (s.Detached p)

/-- Every port is sound, and at port `p` the tags `loose` are on their way into the send list. -/
def State.SoundBut (s : State) (p : PortId) (loose : List Tag) : Prop := ∀ q, s.SoundAt q (if q = p then loose else [])

theorem State.portLaw_iff_soundAt (s : State) : s.PortLaw ↔ ∀ p, s.SoundAt p [] := s.portLaw_iff

theorem State.SoundBut.portLaw {s : State} {p : PortId} (h : s.SoundBut p []) : s.PortLaw :=
  s.portLaw_iff_soundAt.2 fun q => by simpa using h q

/-- A port is sound by its record, the lock unit and the flight table. -/
theorem State.SoundAt.congr {s t : State} {p : PortId} {loose : List Tag} (h : s.SoundAt p loose)
    (hp : t.port p = s.port p) (hu : t.lockUnit = s.lockUnit) (hm : t.memPort.table = s.memPort.table) :
    t.SoundAt p loose := by
  rw [State.SoundAt, State.flightTags, State.Detached, hp, hu, hm]
  exact h

theorem State.SoundBut.congr {s t : State} {p : PortId} {loose : List Tag} (h : s.SoundBut p loose)
    (hp : t.ports = s.ports) (hu : t.lockUnit = s.lockUnit) (hm : t.memPort.table = s.memPort.table) :
    t.SoundBut p loose :=
  fun q => (h q).congr (by rw [State.port, State.port, hp]) hu hm

theorem State.PortLaw.congr {s t : State} (h : s.PortLaw) (hp : t.ports = s.ports) (hu : t.lockUnit = s.lockUnit)
    (hm : t.memPort.table = s.memPort.table) : t.PortLaw :=
  t.portLaw_iff_soundAt.2 fun q =>
    (s.portLaw_iff_soundAt.1 h q).congr (by rw [State.port, State.port, hp]) hu hm

theorem State.PortLaw.soundBut {s : State} (h : s.PortLaw) (p : PortId) : s.SoundBut p [] := fun q => by
  simpa using s.portLaw_iff_soundAt.1 h q

theorem State.PortLaw.soundAt {s : State} (h : s.PortLaw) (p : PortId) : s.SoundAt p [] := s.portLaw_iff_soundAt.1 h p

/-- One port is written, with some tags on their way before and after. -/
theorem State.SoundBut.write {s : State} {p : PortId} {r : PortRecord} {loose loose' : List Tag} (h : s.SoundBut p loose)
    (hr : s.SoundAt p loose →
      r.Sound (s.lockUnit.waitTags p) (loose' ++ s.flightTags p) (s.lockUnit.Without p) (s.Detached p)) :
    (s.setPort p r).SoundBut p loose' := by
  intro q
  have hq := h q
  by_cases hqp : q = p
  · subst hqp
    rw [if_pos rfl] at hq ⊢
    rw [State.SoundAt, State.port_setPort_self]
    exact hr hq
  · rw [if_neg hqp] at hq ⊢
    exact hq.congr (State.port_setPort_ne s r hqp) rfl rfl

theorem State.PortLaw.setPort {s : State} (h : s.PortLaw) {p : PortId} {r : PortRecord} (hr : s.SoundAt p [] →
    r.Sound (s.lockUnit.waitTags p) (s.flightTags p) (s.lockUnit.Without p) (s.Detached p)) : (s.setPort p r).PortLaw :=
  State.SoundBut.portLaw ((h.soundBut p).write hr)

theorem State.PortLaw.report {s : State} (h : s.PortLaw) (src : FaultSource) (fs : List FaultInfo) :
    (s.report src fs).PortLaw :=
  h.congr (s.report_ports src fs) (s.report_lockUnit src fs) (by rw [s.report_memPort])

theorem State.SoundBut.report {s : State} {p : PortId} {loose : List Tag} (h : s.SoundBut p loose) (src : FaultSource)
    (fs : List FaultInfo) : (s.report src fs).SoundBut p loose :=
  h.congr (s.report_ports src fs) (s.report_lockUnit src fs) (by rw [s.report_memPort])

/-! ### Head handling -/

/-- Head handling forms RESPONSEs only (R127). -/
theorem State.headRun_frames (s : State) (p : PortId) : ∀ f ∈ (s.headRun p).frames, f.isNotice = false := by
  rw [State.headRun]
  split
  · exact s.runHeads_frames p _ _
  · exact fun f hf => (List.not_mem_nil hf).elim

/-- Each tag of the queue stays in one place when the port handles its heads (R126, R127). -/
theorem PortRecord.Sound.heads {s : State} {p : PortId} {waits flights : List Tag} {gone detached : Prop}
    (h : (s.port p).Sound waits flights gone detached) :
    PortRecord.Sound { s.port p with
      queue := (s.headRun p).queue, headClass := (s.headRun p).headClass, handed := (s.headRun p).handed }
      waits ((s.headRun p).frames.filterMap Frame.responseTag ++ flights) gone detached := by
  rw [State.headRun]
  dsimp only
  split
  · rename_i hmay
    obtain ⟨hclass, hhanded⟩ := (s.port p).mayClassify_iff.1 hmay
    have hlive : (s.port p).stale = false := Bool.eq_false_iff.2 fun hs => h.stale hs hhanded
    obtain ⟨hnotices, hbad, henabled, hqueue, hclaim, -⟩ := h.record
    obtain ⟨hwaiting, hfence⟩ := s.runHeads_waiting p (s.port p).writeFlight (s.port p).queue
    have htags := s.runHeads_tags p (s.port p).writeFlight (s.port p).queue
    have hempty : (s.port p).link ≠ .online → s.runHeads p (s.port p).writeFlight (s.port p).queue =
        { queue := [], headClass := none, handed := none, frames := [], faults := [] } := fun hl => by
      rw [hqueue hl, State.runHeads]
    refine ⟨⟨hnotices, hbad, henabled, fun hl => by rw [hempty hl], hclaim, hwaiting⟩,
      h.tags.perm (List.perm_iff_count.2 fun t => ?_), hfence, fun hl => ?_, h.landed,
      fun hs => absurd (hlive.symm.trans hs) Bool.false_ne_true, fun hc hl => ?_⟩
    · have hcount := congrArg (List.count t) htags
      simp only [List.count_append] at hcount
      rw [PortRecord.count_tagPlaces, PortRecord.count_tagPlaces]
      simp only [PortRecord.handedTags, hhanded, hlive, Option.toList_none, List.map_nil, List.count_nil,
        List.count_append, Bool.false_eq_true, if_false]
      omega
    · obtain ⟨ho, hdet, -⟩ := h.closed hl
      exact ⟨ho, hdet, fun hn => absurd (by rw [hempty hl]) hn⟩
    · have hclosed : (s.port p).link ≠ .online :=
        hl.resolve_right fun hs => Bool.false_ne_true (hlive.symm.trans hs)
      exact ⟨(h.ended hc hl).1, fun op ho => by rw [hempty hclosed] at ho; cases ho⟩
  · exact h

/-- What the port writes when it handles its heads (R127, R133). -/
theorem PortRecord.Sound.advance {s : State} {p : PortId} {waits flights loose : List Tag} {gone detached : Prop}
    (h : (s.port p).Sound waits (loose ++ flights) gone detached) {own fs : List Frame}
    (hown : ∀ f ∈ own, f.isNotice = false) (hloose : (own.filterMap Frame.responseTag).Perm loose)
    (hfs : fs.Perm (own ++ (s.headRun p).frames)) :
    PortRecord.Sound { s.port p with
      queue := (s.headRun p).queue, headClass := (s.headRun p).headClass, handed := (s.headRun p).handed,
      sendList := (s.port p).sendList ++ fs } waits flights gone detached := by
  refine h.heads.regroup (flights' := (loose ++ (s.headRun p).frames.filterMap Frame.responseTag) ++ flights)
    (List.perm_iff_count.2 fun t => ?_) id (fun _ => id) |>.form (fun f hf => ?_) ?_
  · simp only [List.count_append]
    omega
  · rcases List.mem_append.1 (hfs.mem_iff.1 hf) with hf | hf
    · exact hown f hf
    · exact s.headRun_frames p f hf
  · refine (hfs.filterMap _).trans ?_
    rw [List.filterMap_append]
    exact hloose.append_right _

/-- The frames of the event bring the tags on their way into the send list. -/
theorem State.SoundBut.advance {s : State} {p : PortId} {loose : List Tag} (h : s.SoundBut p loose) {own : List Frame}
    (hown : ∀ f ∈ own, f.isNotice = false) (hloose : (own.filterMap Frame.responseTag).Perm loose) :
    (s.advance p own).PortLaw := by
  obtain ⟨fs, n, hfs, heq⟩ := s.advance_writes p own
  rw [heq, State.portLaw_iff_soundAt]
  intro q
  have hq := h q
  by_cases hqp : q = p
  · subst hqp
    rw [if_pos rfl] at hq
    rw [State.SoundAt]
    show ((s.setPort q _).port q).Sound _ _ _ _
    rw [State.port_setPort_self]
    exact hq.advance hown hloose hfs
  · rw [if_neg hqp] at hq
    exact hq.congr (State.port_setPort_ne s _ hqp) rfl rfl

/-! ### Words handed to ports -/

/-- The RESPONSEs of a port's words carry the outstanding ones of their tags (R126, R128). -/
theorem State.wordsTo_tags (s : State) (q : PortId) (as : List Answer) : (s.wordsTo q as).filterMap Frame.responseTag =
    (answerTags as q).filter (fun t => (s.port q).hasTag t) := by
  simp only [State.wordsTo, answerTags, List.filterMap_map, List.filter_map, List.filter_filter]
  rw [← List.filterMap_eq_map]
  congr 1
  exact List.filter_congr fun a _ => Bool.and_comm _ _

theorem State.wordsTo_frames (s : State) (q : PortId) (as : List Answer) : ∀ f ∈ s.wordsTo q as, f.isNotice = false := by
  intro f hf
  obtain ⟨a, -, rfl⟩ := List.mem_map.1 hf
  rfl

/-- Words whose tags have a place are all answered. -/
theorem State.wordsTo_tags_of_placed {s : State} {q : PortId} {as : List Answer}
    (h : ∀ t ∈ answerTags as q, (s.port q).outstanding.getLsbD t.val = true) :
    (s.wordsTo q as).filterMap Frame.responseTag = answerTags as q := by
  rw [State.wordsTo_tags]
  exact List.filter_eq_self.2 h

/-- With nothing outstanding every word is discarded (R45, R153). -/
theorem State.wordsTo_of_closed {s : State} {q : PortId} (h : (s.port q).outstanding = 0) (as : List Answer) :
    s.wordsTo q as = [] := by
  simp [State.wordsTo, PortRecord.hasTag, h]

/-- The waits of a session that end are answered in its port's send list; those of an ended session are not (R126, R153). -/
theorem PortRecord.Sound.answered {s : State} {q : PortId} {waits waits' flights : List Tag} {gone gone' detached : Prop}
    (h : (s.port q).Sound waits flights gone detached) {as : List Answer}
    (hp : (s.port q).link = .online → waits.Perm (waits' ++ answerTags as q)) (hg : gone → gone') :
    PortRecord.Sound { s.port q with sendList := (s.port q).sendList ++ s.wordsTo q as } waits' flights gone' detached := by
  by_cases hl : (s.port q).link = .online
  · have hmoved : (s.port q).Sound waits' (answerTags as q ++ flights) gone' detached := by
      refine h.regroup ?_ hg fun _ => id
      rw [if_pos hl, if_pos hl, ← List.append_assoc]
      exact (hp hl).append_right _
    refine hmoved.form (s.wordsTo_frames q as) ?_
    rw [State.wordsTo_tags_of_placed fun t ht => (hmoved.tags.2 t).2 ?_]
    simp only [PortRecord.tagPlaces, List.mem_append]
    exact .inl (.inr (.inl ht))
  · obtain ⟨ho, -⟩ := h.closed hl
    rw [State.wordsTo_of_closed ho, List.append_nil]
    refine h.regroup ?_ hg fun _ => id
    rw [if_neg hl, if_neg hl]

theorem State.SoundAt.applyLock {s : State} {q : PortId} (h : s.SoundAt q []) {e : LockEffect}
    (hp : (s.port q).link = .online → (s.lockUnit.waitTags q).Perm (e.unit.waitTags q ++ answerTags e.answers q))
    (hg : s.lockUnit.Without q → e.unit.Without q) : (s.applyLock e).SoundAt q [] := by
  obtain ⟨⟨hunit, hports, -, ⟨-, -, -, -, hmem, -⟩, -⟩, -⟩ := s.applyLock_spec e
  rw [State.SoundAt, hunit, hports, State.flightTags, State.Detached, hmem]
  exact PortRecord.Sound.answered h hp hg

/-- An event at the lock unit that answers the waits it ends (R31, R34, R39, R42). -/
theorem State.PortLaw.applyLock {s : State} (h : s.PortLaw) (hu : s.lockUnit.WaitLaw) {e : LockEffect}
    (he : s.lockUnit.Ledger e.unit e.answers) : (s.applyLock e).PortLaw := by
  obtain ⟨-, hwaits, hgone⟩ := he hu
  refine (State.portLaw_iff_soundAt _).2 fun q => ?_
  refine (s.portLaw_iff_soundAt.1 h q).applyLock (fun _ => hwaits q) fun hw => ?_
  obtain ⟨hwait, hheld⟩ := hgone q hw.2 hw.1
  exact ⟨hheld, hwait⟩

/-- A lock unit that keeps every wait and forgets no empty port. -/
theorem State.PortLaw.setUnit {s : State} (h : s.PortLaw) (hu : s.lockUnit.WaitLaw) {u : LockUnit}
    (he : s.lockUnit.Ledger u []) : (s.setUnit u).PortLaw :=
  h.applyLock (e := { unit := u }) hu he

/-- An operation whose port has neither entry nor wait leaves it so when the claim may pass it (R45, R153). -/
theorem State.slotEffect_without {s : State} {p : PortId} {op : LockOp} (h : s.lockUnit.Without p)
    (hk : op.kind.claimMayPass = true) : (s.slotEffect p op.kind op).unit.Without p := by
  have hwithdraw : (s.lockUnit.withdraw p op).unit = s.lockUnit := by
    rw [LockUnit.withdraw]
    split
    · rfl
    · rw [if_neg (by simp [h.2])]
  cases hkind : op.kind with
  | withdraw =>
    rw [State.slotEffect, hwithdraw]
    exact h
  | inspect =>
    rw [State.slotEffect, LockUnit.inspect_unit]
    exact h
  | misuse => exact h
  | acquireExclusive | acquireShared | tryExclusive | tryShared | release | releaseLatest =>
    rw [hkind] at hk
    cases hk

/-- An operation is taken at the lock unit (R14, R128). -/
theorem State.PortLaw.finishOp {s : State} (h : s.PortLaw) (hu : s.lockUnit.WaitLaw) {p : PortId} {op : LockOp}
    (hop : (s.port p).handed = some op) : (s.finishOp p (s.slotEffect p op.kind op)).PortLaw := by
  obtain ⟨-, hwaits, hgone⟩ := s.slotEffect_ledger p op.kind op hu
  have hwithout : s.lockUnit.Without p → op.kind.claimMayPass = true → (s.slotEffect p op.kind op).unit.Without p :=
    State.slotEffect_without
  generalize s.slotEffect p op.kind op = e at hwaits hgone hwithout
  obtain ⟨hunit, ⟨fs, hfs, hport⟩, hports, -, ⟨-, -, -, -, hmem, -⟩, -⟩ := s.finishOp_spec p e
  refine (State.portLaw_iff_soundAt _).2 fun q => ?_
  have hq := s.portLaw_iff_soundAt.1 h q
  rw [State.SoundAt, hunit, State.flightTags, State.Detached, hmem]
  by_cases hqp : q = p
  · subst hqp
    rw [hport]
    have htaken := hq.taken hop (by simpa using hwaits q) LockUnit.Without.waitTags LockUnit.Without.waitTags hwithout
    have hown : ((if (s.port q).stale = true then [] else s.wordsTo q e.answers).filterMap Frame.responseTag) =
        if (s.port q).stale = true then [] else answerTags e.answers q := by
      split
      · rfl
      · rename_i hs
        refine State.wordsTo_tags_of_placed fun t ht => (htaken.tags.2 t).2 ?_
        simp only [PortRecord.tagPlaces, List.mem_append, if_neg hs]
        exact .inl (.inr (.inl ht))
    let v : State := { s.setPort q { s.port q with handed := none, stale := false } with lockUnit := e.unit }
    have hv : v.port q = { s.port q with handed := none, stale := false } := State.port_setPort_self _ _ _
    rw [← hv] at htaken
    have hdone := htaken.advance (fs := fs) (own := if (s.port q).stale = true then [] else s.wordsTo q e.answers)
      (fun f hf => ?_) (by rw [hown]) hfs
    · rw [hv] at hdone
      exact hdone
    · split at hf
      · exact (List.not_mem_nil hf).elim
      · exact s.wordsTo_frames q _ f hf
  · rw [hports q hqp]
    refine PortRecord.Sound.answered hq (fun _ => ?_) fun hw => ?_
    · simpa [hqp] using hwaits q
    · obtain ⟨hwait, hheld⟩ := hgone q hqp hw.2 hw.1
      exact ⟨hheld, hwait⟩

theorem State.PortLaw.takeOp {s : State} (h : s.PortLaw) (hu : s.lockUnit.WaitLaw) (p : PortId) (k : LockOpKind) :
    (s.takeOp p k (s.slotEffect p k)).PortLaw := by
  rw [State.takeOp]
  split
  · exact h
  · rename_i op hop
    split
    · rename_i hk
      subst hk
      exact h.finishOp hu hop
    · exact h

/-! ### Port reset and its end -/

/-- The tags of the attached reads of port `p` in a flight table (R126, R146). -/
def readTags (table : List FlightEntry) (p : PortId) : List Tag :=
  (table.filter (fun e => e.port == p && e.kind == .read)).filterMap FlightEntry.tag

theorem State.flightTags_eq (s : State) (p : PortId) : s.flightTags p = readTags s.memPort.table p := rfl

theorem readTags_append (table table' : List FlightEntry) (p : PortId) :
    readTags (table ++ table') p = readTags table p ++ readTags table' p := by
  simp [readTags]

/-- The tag that one entry gives port `p`. -/
theorem readTags_singleton (e : FlightEntry) (p : PortId) :
    readTags [e] p = if e.port = p ∧ e.kind = .read then e.tag.toList else [] := by
  by_cases h : e.port = p ∧ e.kind = .read
  · cases ht : e.tag <;> simp [readTags, h, ht]
  · have hnot : (e.port == p && e.kind == .read) = false := by simpa using h
    simp [readTags, hnot, h]

theorem readTags_cons (e : FlightEntry) (rest : List FlightEntry) (p : PortId) :
    readTags (e :: rest) p = (if e.port = p ∧ e.kind = .read then e.tag.toList else []) ++ readTags rest p := by
  rw [← readTags_singleton, ← readTags_append, List.singleton_append]

theorem detach_detached (table : List FlightEntry) (p : PortId) : ∀ e ∈ detach p table, e.port = p → e.tag = none := by
  intro e he hp
  obtain ⟨x, -, rfl⟩ := List.mem_map.1 he
  split at hp
  · rename_i hx
    simp [hx]
  · exact absurd hp ‹_›

/-- A detached port has no tag in flight (R148). -/
theorem readTags_detach_self (table : List FlightEntry) (p : PortId) : readTags (detach p table) p = [] := by
  refine List.filterMap_eq_nil_iff.2 fun e he => ?_
  obtain ⟨hmem, hport⟩ := List.mem_filter.1 he
  simp only [Bool.and_eq_true, beq_iff_eq] at hport
  exact detach_detached table p e hmem hport.1

/-- The entries of other ports stand. -/
theorem readTags_detach_ne (table : List FlightEntry) {p q : PortId} (h : q ≠ p) :
    readTags (detach p table) q = readTags table q := by
  induction table with
  | nil => rfl
  | cons e rest ih =>
    have hcons : detach p (e :: rest) = (if e.port = p then { e with tag := none } else e) :: detach p rest := rfl
    rw [hcons, readTags_cons, readTags_cons, ih]
    by_cases he : e.port = p
    · have hne : ¬p = q := fun e => h e.symm
      simp [he, hne]
    · simp [he]

theorem State.Detached.of_detach {s : State} {p q : PortId} (h : s.Detached q) :
    ∀ e ∈ detach p s.memPort.table, e.port = q → e.tag = none := by
  intro e he hq
  obtain ⟨x, hx, rfl⟩ := List.mem_map.1 he
  split at hq
  · rename_i hp
    simp [hp]
  · rw [if_neg ‹_›]
    exact h x hx hq

/-- A port reset (R152): only the NOTICEs that wait at the port matter for its new record. -/
theorem State.portReset_portLaw {s : State} {p : PortId} (h : ∀ q, q ≠ p → s.SoundAt q [])
    (hn : (s.port p).sendList.countP Frame.isNotice ≤ 8) (close : Bool) : (s.portReset p close).PortLaw := by
  refine (State.portLaw_iff_soundAt _).2 fun q => ?_
  rw [State.SoundAt, State.flightTags_eq, State.Detached]
  by_cases hq : q = p
  · subst hq
    show ((s.setPort q ((s.port q).reset close)).port q).Sound _ (readTags (detach q s.memPort.table) q) _
      (∀ e ∈ detach q s.memPort.table, e.port = q → e.tag = none)
    rw [State.port_setPort_self, readTags_detach_self]
    exact PortRecord.Sound.reset hn close (detach_detached _ q)
  · show ((s.setPort p ((s.port p).reset close)).port q).Sound _ (readTags (detach p s.memPort.table) q) _
      (∀ e ∈ detach p s.memPort.table, e.port = q → e.tag = none)
    rw [State.port_setPort_ne _ _ hq, readTags_detach_ne _ hq]
    exact (h q hq).regroup (List.Perm.refl _) id fun _ => State.Detached.of_detach

theorem State.PortLaw.notices {s : State} (h : s.PortLaw) (p : PortId) :
    (s.port p).sendList.countP Frame.isNotice ≤ 8 :=
  (h p).1.1

theorem State.PortLaw.portReset {s : State} (h : s.PortLaw) (p : PortId) (close : Bool) : (s.portReset p close).PortLaw :=
  State.portReset_portLaw (fun q _ => h.soundAt q) (h.notices p) close

/-- RESETTING ends once nothing of the port is in flight (R153). -/
theorem State.PortLaw.endReset {s : State} (h : s.PortLaw) {p : PortId}
    (hw : (s.port p).flight = 0 → (s.port p).writeFlight = 0) : (s.endReset p).PortLaw := by
  rw [State.endReset]
  split
  · rename_i hend
    obtain ⟨hl, hc, hf⟩ := hend
    have hoff := h.setPort fun hs => hs.offline hl hc hf (hw hf)
    rw [State.goOffline]
    dsimp only
    split
    · exact hoff
    · exact hoff
  · exact h

/-! ### Frames and silence on the links -/

theorem State.PortLaw.sendNotice {s : State} (h : s.PortLaw) (p : PortId) (n : Notice) :
    (s.setPort p ((s.port p).sendNotice n)).PortLaw :=
  h.setPort fun hs => hs.sendNotice n

theorem State.PortLaw.takeOpen {s : State} (h : s.PortLaw) (p : PortId) : (s.takeOpen p).PortLaw := by
  rw [State.takeOpen]
  dsimp only
  split
  · rename_i hl
    split
    · rename_i he
      refine h.setPort fun hs => ?_
      have hnoticed := hs.sendNotice .openAck
      refine hnoticed.opened ?_ ?_ LockUnit.Without.waitTags
      · rw [PortRecord.sendNotice]; split <;> exact hl
      · rw [PortRecord.sendNotice]; split <;> exact he
    · exact h.sendNotice p _
  · exact h.setPort fun hs => (hs.sendNotice .openAck).counted (Nat.zero_lt_succ 7) 0
  · exact h

theorem State.PortLaw.takeClose {s : State} (h : s.PortLaw) (p : PortId) : (s.takeClose p).PortLaw := by
  rw [State.takeClose]
  split
  · exact h.sendNotice p _
  · exact h.portReset p true
  · exact h

theorem State.PortLaw.linkLoss {s : State} (h : s.PortLaw) (p : PortId) : (s.linkLoss p).PortLaw :=
  (h.report _ _).portReset p false

theorem State.PortLaw.takeSilence {s : State} (h : s.PortLaw) (p : PortId) : (s.takeSilence p).PortLaw := by
  rw [State.takeSilence]
  split
  · exact h.linkLoss p
  · exact h
  · exact h

/-- A NOTICE is appended to at most seven others (R133). -/
theorem PortRecord.sendNotice_notices {r : PortRecord} (h : r.sendList.countP Frame.isNotice ≤ 8) (n : Notice) :
    (r.sendNotice n).sendList.countP Frame.isNotice ≤ 8 := by
  rw [PortRecord.sendNotice]
  split
  · show (r.sendList ++ [Frame.notice n]).countP Frame.isNotice ≤ 8
    rw [List.countP_append]
    assumption
  · exact h

/-- The eighth bad frame in a row resets the port, so the count stays below 8 (R122, R123). -/
theorem State.PortLaw.takeBadFrame {s : State} (h : s.PortLaw) (p : PortId) : (s.takeBadFrame p).PortLaw := by
  rw [State.takeBadFrame]
  dsimp only
  split
  · exact h.sendNotice p _
  · exact h
  · split
    · refine State.portReset_portLaw (fun q hq => ?_) ?_ false
      · refine (h.soundAt q).congr ?_ (State.report_lockUnit _ _ _) (by rw [State.report_memPort]; rfl)
        rw [State.report_port, State.port_setPort_ne _ _ hq]
      · rw [State.report_port, State.port_setPort_self]
        refine PortRecord.sendNotice_notices ?_ _
        exact h.notices p
    · rename_i hfew
      exact h.setPort fun hs => PortRecord.Sound.sendNotice (hs.counted (Nat.lt_of_not_le hfew) _) _

theorem State.PortLaw.refuseRequest {s : State} (h : s.PortLaw) (p : PortId) (tag : Tag) (addr : Word)
    (reason : ProtocolReason) : (s.refuseRequest p tag addr reason).PortLaw :=
  (h.sendNotice p _).report _ _

/-- A request that passes R124's checks has a tag that is not outstanding. -/
theorem PortRecord.hasTag_of_checkRequest {r : PortRecord} {kind : BitVec 4} {tag : Tag} {size : Byte} {addr : Word}
    {data : List Byte} {q : Request} (h : r.checkRequest kind tag size addr data = .ok q) : r.hasTag q.tag = false := by
  rw [PortRecord.checkRequest] at h
  split at h
  · cases h
  · split at h
    · cases h
    · split at h
      · cases h
      · split at h
        · cases h
        · rename_i htag
          obtain rfl := Except.ok.inj h
          simpa using htag

theorem State.PortLaw.takeRequest {s : State} (h : s.PortLaw) (p : PortId) (kind : BitVec 4) (tag : Tag) (size : Byte)
    (addr : Word) (data : List Byte) : (s.takeRequest p kind tag size addr data).PortLaw := by
  have hgood : (s.setPort p (s.port p).goodFrame).PortLaw := h.setPort fun hs => hs.counted (Nat.zero_lt_succ 7) _
  rw [State.takeRequest]
  split
  · exact h.refuseRequest p tag addr _
  · exact h
  · rename_i hl
    dsimp only
    split
    · exact hgood.refuseRequest p tag addr _
    · rename_i q hq
      refine State.SoundBut.advance (loose := []) ((hgood.soundBut p).write fun hs => ?_) (fun f hf => (List.not_mem_nil hf).elim) .nil
      refine hs.accept ?_ ?_
      · rw [State.port_setPort_self]
        exact hl
      · rw [State.port_setPort_self]
        exact PortRecord.hasTag_of_checkRequest hq

/-! ### Issue of a head -/

/-- The chosen head is the head of its port's queue, and it is classified (R139). -/
theorem State.of_chosenHead {s : State} {p : PortId} {q : Request} {c : HeadClass} (h : s.chosenHead = some (p, q, c)) :
    (s.port p).queue.head? = some q ∧ (s.port p).headClass = some c := by
  rw [State.chosenHead] at h
  split at h
  · cases h
  · cases h
  · split at h
    · rename_i q' c' hq hc
      simp only [Option.some.injEq, Prod.mk.injEq] at h
      obtain ⟨rfl, rfl, rfl⟩ := h
      exact ⟨hq, hc⟩
    · cases h

/-- The OK of a write is no NOTICE. -/
theorem issueFrames_notices (q : Request) : ∀ f ∈ issueFrames q, f.isNotice = false := by
  intro f hf
  rw [issueFrames] at hf
  split at hf
  · obtain rfl := List.mem_singleton.1 hf
    rfl
  · exact (List.not_mem_nil hf).elim

/-- An issued head's tag goes with the entry of a read and with the OK of a write (R126, R129, R142). -/
theorem issue_tags (p : PortId) (q : Request) (guard : Option LockId) :
    ((issueFrames q).filterMap Frame.responseTag ++
      readTags [{ port := p, tag := some q.tag, kind := q.kind, size := q.size, addr := q.addr, guard := guard }] p) =
        [q.tag] := by
  rw [readTags_singleton, issueFrames]
  cases hk : q.kind <;> simp

/-- A waiting head is issued (R142, R143). -/
theorem State.PortLaw.issueHead {s : State} (h : s.PortLaw) {p : PortId} {q : Request}
    (hq : (s.port p).queue.head? = some q) (hc : (s.port p).headClass ≠ none) (guard : Option LockId) :
    (s.issueHead p q guard).PortLaw := by
  rw [State.issueHead]
  refine State.SoundBut.advance (loose := (issueFrames q).filterMap Frame.responseTag) (fun x => ?_)
    (issueFrames_notices q) (.refl _)
  rw [State.SoundAt, State.flightTags_eq, State.Detached]
  by_cases hx : x = p
  · subst hx
    rw [if_pos rfl]
    show ((s.setPort x ((s.port x).issued q)).port x).Sound _ (_ ++ readTags (s.memPort.table ++ [_]) x) _
      (∀ e ∈ s.memPort.table ++ [_], e.port = x → e.tag = none)
    rw [State.port_setPort_self, readTags_append]
    obtain ⟨hl, -⟩ := (h.soundAt x).of_head hc
    refine ((h.soundAt x).leaveHead hc hq _ _).regroup (List.Perm.append_left _ ?_) id fun hn => absurd hl hn
    rw [List.nil_append, ← List.singleton_append, ← issue_tags x q guard, List.append_assoc]
    exact List.Perm.append_left _ List.perm_append_comm
  · rw [if_neg hx]
    show ((s.setPort p ((s.port p).issued q)).port x).Sound _ ([] ++ readTags (s.memPort.table ++ [_]) x) _
      (∀ e ∈ s.memPort.table ++ [_], e.port = x → e.tag = none)
    have hne : ¬p = x := fun e => hx e.symm
    rw [State.port_setPort_ne _ _ hx, readTags_append, readTags_singleton, if_neg fun hp => hne hp.1, List.append_nil]
    refine (h.soundAt x).regroup (List.Perm.refl _) id fun _ hd e he hp => ?_
    rcases List.mem_append.1 he with he | he
    · exact hd e he hp
    · obtain rfl := List.mem_singleton.1 he
      exact absurd hp hne

theorem State.PortLaw.dropHead {s : State} (h : s.PortLaw) {p : PortId} {q : Request}
    (hq : (s.port p).queue.head? = some q) (hc : (s.port p).headClass ≠ none) : (s.dropHead p q).PortLaw := by
  have hgone : (s.setPort p { s.port p with queue := (s.port p).queue.tail, headClass := none }).SoundBut p [q.tag] :=
    (h.soundBut p).write fun hs => hs.leaveHead hc hq (s.port p).flight (s.port p).writeFlight
  have hfreed : ({ s.setPort p { s.port p with queue := (s.port p).queue.tail, headClass := none } with
      arbiter := { s.arbiter with slot := .free } } : State).SoundBut p [q.tag] := hgone.congr rfl rfl rfl
  refine hfreed.advance (own := [blockedResponse q.tag]) (fun f hf => ?_) (List.Perm.refl [q.tag])
  rw [List.mem_singleton.1 hf]
  rfl

/-- An increment claim (R75, R143). -/
theorem State.PortLaw.claimHead {s : State} (h : s.PortLaw) (hu : s.lockUnit.WaitLaw) {p : PortId} {q : Request}
    (hq : (s.port p).queue.head? = some q) (hc : (s.port p).headClass ≠ none) (l : LockId) (w : WindowId)
    (policy : WritePolicy) : (s.claimHead p q l w policy).PortLaw := by
  have hcounted : (s.setUnit (s.lockUnit.countGuarded l)).PortLaw :=
    h.setUnit hu (LockUnit.Ledger.setLock s.lockUnit l _ rfl)
  rw [State.claimHead]
  split
  · exact hcounted.issueHead hq hc _
  · have hreported := h.report .lockUnit [guardFault .guardWrite p q.tag w q.addr l (s.lockUnit.lock l).generation]
    dsimp only
    split
    · exact hreported.issueHead (by rwa [State.report_port]) (by rwa [State.report_port]) none
    · exact hreported.dropHead (by rwa [State.report_port]) (by rwa [State.report_port])

/-! ### Completions and the port-gone claim -/

/-- The oldest entry leaves the table: the tag of an attached read is on its way to its port (R145, R146). -/
theorem State.PortLaw.dropOldest {s : State} (h : s.PortLaw) {e : FlightEntry} {rest : List FlightEntry}
    (ht : s.memPort.table = e :: rest) : ({ s with memPort := { s.memPort with table := rest } } : State).SoundBut e.port
      (if e.kind = .read then e.tag.toList else []) := by
  intro q
  have hq := h.soundAt q
  rw [State.SoundAt, State.flightTags_eq, State.Detached, ht, readTags_cons] at hq
  refine hq.regroup (List.Perm.append_left _ ?_) id fun _ hd x hx => hd x (List.mem_cons_of_mem e hx)
  rw [State.flightTags_eq, List.nil_append]
  by_cases hp : e.port = q
  · subst hp
    simp
  · simp [hp, Ne.symm hp]

/-- The RESPONSE of a completed read carries its entry's tag, none when detached (R146). -/
theorem readFrames_tags (e : FlightEntry) (failed : Bool) (data : List Byte) :
    (readFrames e failed data).filterMap Frame.responseTag = e.tag.toList ∧
      ∀ f ∈ readFrames e failed data, f.isNotice = false := by
  rw [readFrames]
  split
  · rename_i ht
    exact ⟨by rw [ht]; rfl, fun f hf => (List.not_mem_nil hf).elim⟩
  · rename_i t ht
    rw [ht]
    cases failed
    · exact ⟨rfl, fun f hf => by obtain rfl := List.mem_singleton.1 hf; rfl⟩
    · exact ⟨rfl, fun f hf => by obtain rfl := List.mem_singleton.1 hf; rfl⟩

/-- Frames formed at a port bring the tags on their way into its send list (R133). -/
theorem State.SoundBut.formFrames {s : State} {p : PortId} {loose : List Tag} (h : s.SoundBut p loose) {fs : List Frame}
    (hn : ∀ f ∈ fs, f.isNotice = false) (hp : (fs.filterMap Frame.responseTag).Perm loose) : (s.formFrames p fs).PortLaw := by
  have harranged := arrange_perm fs s.draws
  refine (State.portLaw_iff_soundAt _).2 fun q => ?_
  have hq := h q
  by_cases hqp : q = p
  · subst hqp
    rw [if_pos rfl] at hq
    rw [State.SoundAt]
    show ((s.setPort q _).port q).Sound _ _ _ _
    rw [State.port_setPort_self]
    exact PortRecord.Sound.form hq (fun f hf => hn f (harranged.mem_iff.1 hf)) ((harranged.filterMap _).trans hp)
  · rw [if_neg hqp] at hq
    exact hq.congr (State.port_setPort_ne s _ hqp) rfl rfl

/-- The port's part of the completion of a write (R147, R130). -/
theorem State.PortLaw.completeAtPort {s : State} (h : s.PortLaw) {e : FlightEntry}
    (hw : ((s.port e.port).completed .write).flight = 0 → ((s.port e.port).completed .write).writeFlight = 0) :
    (s.completeAtPort e).PortLaw := by
  refine State.PortLaw.endReset (h.setPort fun hs => PortRecord.Sound.openFence (hs.completed .write)) ?_
  obtain ⟨hflight, hwrite⟩ := ((s.port e.port).completed .write).openFence_sameCounts
  rw [State.port_setPort_self, hflight, hwrite]
  exact hw

/-- A port with nothing in flight has no write in flight (R129). -/
theorem State.FlightLaw.noWrites {s : State} (h : s.FlightLaw) {p : PortId} (hp : (s.port p).flight = 0) :
    (s.port p).writeFlight = 0 := by
  obtain ⟨-, -, hflights, hwrites, -⟩ := h
  rw [hflights] at hp
  rw [hwrites]
  refine Nat.le_zero.1 (le_trans (List.countP_mono_left fun e _ he => ?_) hp.le)
  exact (Bool.and_eq_true _ _ ▸ he).1

/-- A completion (R145 to R148). -/
theorem State.PortLaw.complete {s : State} (h : s.PortLaw) (hu : s.lockUnit.WaitLaw) (hf : s.FlightLaw) {e : FlightEntry}
    {rest : List FlightEntry} (ht : s.memPort.table = e :: rest) (result : MemResult) (data : List Byte) :
    (s.complete e rest result data).PortLaw := by
  have hloose := h.dropOldest ht
  have hcounts : ((s.port e.port).completed e.kind).flight = 0 → ((s.port e.port).completed e.kind).writeFlight = 0 := by
    have hlaw := (hf.dropOldest ht).noWrites (p := e.port)
    rwa [State.port_setPort_self] at hlaw
  rw [State.complete]
  dsimp only
  split
  · rename_i hk
    rw [hk] at hcounts
    rw [if_pos hk] at hloose
    obtain ⟨htags, hnotices⟩ := readFrames_tags e (e.fails result data) data
    rw [State.completeRead]
    refine State.PortLaw.endReset (State.PortLaw.report (State.SoundBut.formFrames
      (hloose.write fun hs => hs.completed .read) hnotices (by rw [htags])) _ _) ?_
    rw [State.report_port, State.formFrames]
    show ((State.setPort _ e.port _).port e.port).flight = 0 → ((State.setPort _ e.port _).port e.port).writeFlight = 0
    rw [State.port_setPort_self, State.port_setPort_self]
    exact hcounts
  · rename_i hk
    rw [hk] at hcounts
    rw [if_neg (by simp [hk])] at hloose
    have hdropped := hloose.portLaw
    rw [State.completeWrite]
    split
    · refine State.PortLaw.completeAtPort (hdropped.report _ _) ?_
      rw [State.report_port]
      exact hcounts
    · rename_i l _
      refine State.PortLaw.completeAtPort (hdropped.applyLock hu (s.lockUnit.completeGuarded_ledger l e _)) ?_
      rw [State.applyLock_port]
      exact hcounts

/-- PORT_GONE_CLAIM (R153, R154). -/
theorem State.PortLaw.takeClaim {s : State} (h : s.PortLaw) (hu : s.lockUnit.WaitLaw) (hf : s.FlightLaw) {p : PortId}
    (hr : (s.port p).claimReady = true) : (s.takeClaim p).PortLaw := by
  obtain ⟨hdue, hpass⟩ := (PortRecord.claimReady_iff _).1 hr
  obtain ⟨-, hwait, hheld, hothers, hgone⟩ := s.lockUnit.claim_ledger p hu
  have hlink : (s.port p).link = .resetting := by
    obtain ⟨-, -, -, -, hclaim, -⟩ := (h.soundAt p).record
    exact hclaim hdue
  have hcounts := (s.applyLock_keepsFlights (s.lockUnit.claim p)).flightLaw hf
  have happlied : (s.applyLock (s.lockUnit.claim p)).PortLaw := by
    refine (State.portLaw_iff_soundAt _).2 fun q => (h.soundAt q).applyLock (fun hl => hothers q ?_) fun hw => ?_
    · rintro rfl
      rw [hlink] at hl
      cases hl
    · obtain ⟨hwait, hheld⟩ := hgone q hw.2 hw.1
      exact ⟨hheld, hwait⟩
  rw [State.takeClaim]
  refine State.PortLaw.endReset (happlied.setPort fun hs => hs.claimed ?_ fun op hop => ?_) ?_
  · rw [State.applyLock_lockUnit]
    exact ⟨hheld, hwait⟩
  · rw [State.applyLock_port] at hop
    exact hpass op hop
  · rw [State.port_setPort_self]
    exact hcounts.noWrites

/-! ### Commands of the supervisor -/

theorem State.PortLaw.setPortItems {s : State} (h : s.PortLaw) (p : PortId) (enabled : Bool) (cls : PortClass)
    (limit : BitVec 16) : (s.setPortItems p enabled cls limit).PortLaw := by
  rw [State.setPortItems]
  dsimp only
  split
  · refine State.portReset_portLaw (fun q hq => ?_) ?_ true
    · exact (h.soundAt q).congr (State.port_setPort_ne _ _ hq) rfl rfl
    · rw [State.port_setPort_self]
      exact h.notices p
  · rename_i hnot
    exact h.setPort fun hs => hs.items (fun he hl => hnot ⟨hl, he⟩) cls limit

/-- A lock record is written with its queue as it was. -/
theorem State.PortLaw.setLock {s : State} (h : s.PortLaw) (hu : s.lockUnit.WaitLaw) {l : LockId} {r : LockRecord}
    (hr : r.waiters = (s.lockUnit.lock l).waiters) : (s.setUnit (s.lockUnit.setLock l r)).PortLaw :=
  h.setUnit hu (.setLock _ l r hr)

/-- DEFINE_LOCK (R4): neither a lock taken into service nor a FREE one has a queue to lose. -/
theorem State.PortLaw.define {s : State} (h : s.PortLaw) (hl : s.lockUnit.Law) (l : LockId) (q : LockParams) :
    ((s.lockUnit.lock l).state = .undefined →
      (s.setUnit (s.lockUnit.setLock l { LockRecord.powerOn with state := .free, params := some q })).PortLaw) ∧
    (s.setUnit (s.lockUnit.setLock l { s.lockUnit.lock l with params := some q })).PortLaw := by
  refine ⟨fun hs => h.setLock hl.waits ?_, h.setLock hl.waits rfl⟩
  obtain ⟨hfits, -⟩ := (LockRecord.law_iff _).1 (hl.record l)
  simp only [LockRecord.Fits, hs] at hfits
  obtain ⟨-, hqueue, -⟩ := hfits
  exact hqueue.symm

/-- UNDEFINE_LOCK (R5): a lock that leaves service has no queue to lose. -/
theorem State.PortLaw.undefine {s : State} (h : s.PortLaw) (hl : s.lockUnit.Law) {l : LockId}
    (hr : (s.lockUnit.lock l).removable = true) : (s.setUnit (s.lockUnit.setLock l LockRecord.powerOn)).PortLaw := by
  obtain ⟨hfits, -⟩ := (LockRecord.law_iff _).1 (hl.record l)
  obtain ⟨-, hqueue⟩ := hfits.empty_of_removable hr
  exact h.setLock hl.waits hqueue.symm

theorem State.PortLaw.forceRevoke {s : State} (h : s.PortLaw) (hu : s.lockUnit.WaitLaw) (l : LockId) :
    (s.forceRevoke l).PortLaw :=
  (h.applyLock hu (s.lockUnit.revoke_ledger l)).congr rfl rfl rfl

/-! ### Every command -/

theorem Waiter.lowered_tag (w : Waiter) : w.lowered.tag = w.tag := by
  unfold Waiter.lowered
  split <;> rfl

/-- A tick lowers waits and answers none (R38, R67). -/
theorem LockUnit.waitTags_ticked (u : LockUnit) (l : LockId) (p : PortId) :
    (u.setLock l (u.lock l).ticked).waitTags p = u.waitTags p := by
  have hrecord : ∀ k, ((u.setLock l (u.lock l).ticked).waiterOf k p).toList.map Waiter.tag =
      (u.waiterOf k p).toList.map Waiter.tag := by
    intro k
    by_cases hk : k = l
    · subst hk
      have hport : ((fun w : Waiter => w.port == p) ∘ Waiter.lowered) = fun w => w.port == p :=
        funext fun w => by rw [Function.comp_apply, w.lowered_port]
      simp only [LockUnit.waiterOf, LockUnit.lock_setLock_self, LockRecord.ticked, List.find?_map, hport]
      cases (u.lock k).waiters.find? fun w => w.port == p with
      | none => rfl
      | some w => simp [w.lowered_tag]
    · simp [LockUnit.waiterOf, hk]
  rw [LockUnit.waitTags, LockUnit.waitTags, LockUnit.wait_setLock]
  cases u.wait p with
  | none => rfl
  | some k => exact hrecord k

theorem State.PortLaw.takeTickClaim {s : State} (h : s.PortLaw) (l : LockId) : (s.takeTickClaim l).PortLaw := by
  refine (State.portLaw_iff_soundAt _).2 fun q => ?_
  have hq := h.soundAt q
  rw [State.SoundAt, ← s.lockUnit.waitTags_ticked l q] at hq
  exact hq

theorem State.powerOnValues_portLaw (s : State) (low : Bool) (straps : BitVec 3) (session : Nat) :
    (s.powerOnValues low straps session).PortLaw := by
  have hreset : State.reset.PortLaw := fun p => ⟨by rw [State.reset_port]; exact .powerOn, .atReset p, .atReset p⟩
  exact hreset.congr rfl rfl rfl

/-- An event keeps the law when its effect does. -/
theorem portLaw_of_running {s t : State} {k : State → State}
    (he : (.next (s.running k) : Host.Outcome State Fault Refusal) = .next t) (h : s.PortLaw) (hk : (k s).PortLaw) :
    t.PortLaw := by
  obtain rfl := Host.Outcome.next.inj he
  rw [State.running]
  split
  · exact h
  · exact hk

/-- A command keeps the law when its effect does, at a lock unit that obeys its own. -/
theorem portLaw_of_command {s t : State} {k : State → State}
    (he : (.next (s.command k) : Host.Outcome State Fault Refusal) = .next t) (hl : s.lockUnit.Law) (h : s.PortLaw)
    (hk : ∀ r : State, r.lockUnit.Law → r.PortLaw → (k r).PortLaw) : t.PortLaw := by
  have hacked : ∀ b, (s.acknowledge b).PortLaw := fun b => h.congr rfl rfl rfl
  obtain rfl := Host.Outcome.next.inj he
  rw [State.command]
  split
  · exact hacked false
  · split
    · exact hacked false
    · exact hk _ hl (hacked true)
    · exact hk _ hl (hacked true)

theorem portLaw_of_slotCommand {c : Instr} {p : PortId} {k : LockOpKind} {s t : State}
    (hc : slotCommand c = some (p, k)) (he : exec c s = .next t) (hu : s.lockUnit.WaitLaw) (h : s.PortLaw) : t.PortLaw :=
  portLaw_of_running ((exec_of_slotCommand hc s).symm.trans he) h (h.takeOp hu p k)

/-- A result formed by the supervisor port is no part of the law. -/
theorem State.PortLaw.finish {s : State} (h : s.PortLaw) (status : Status) (data : List Byte) :
    (s.finish status data).PortLaw :=
  h.congr rfl rfl rfl

/-- Every command keeps the law of every port. -/
theorem exec_portLaw {c : Instr} {s t : State} (hl : s.lockUnit.Law) (hf : s.FlightLaw) (h : s.PortLaw)
    (he : exec c s = .next t) : t.PortLaw := by
  have hu := hl.waits
  by_cases hc : leavesLinks c = true
  · obtain ⟨hports, hmem, -, hunit⟩ := exec_sameLinks hc he
    exact h.congr hports hunit (by rw [hmem])
  cases c with
  | powerOn _ _ => obtain rfl := Host.Outcome.next.inj he; exact s.powerOnValues_portLaw _ _ _
  | resetAssert _ => obtain rfl := Host.Outcome.next.inj he; exact s.powerOnValues_portLaw _ _ _
  | resetRelease straps =>
    have he : execResetRelease straps s = .next t := he
    rw [execResetRelease] at he
    split at he
    · obtain rfl := Host.Outcome.next.inj he; exact s.powerOnValues_portLaw _ _ _
    · obtain rfl := Host.Outcome.next.inj he; exact h
  | openFrame p => exact portLaw_of_running he h (h.takeOpen p)
  | closeFrame p => exact portLaw_of_running he h (h.takeClose p)
  | request p kind tag size addr data =>
    refine portLaw_of_running he h ?_
    split
    · exact h.takeRequest p kind tag size addr data
    · exact h.takeBadFrame p
  | badFrame p => exact portLaw_of_running he h (h.takeBadFrame p)
  | linkSilence p => exact portLaw_of_running he h (h.takeSilence p)
  | frameSent p => exact portLaw_of_running he h (h.setPort fun hs => hs.sent)
  | acquireExclusive | acquireShared | tryExclusive | tryShared | inspect | release | releaseLatest | withdraw
  | misuseAccess => exact portLaw_of_slotCommand rfl he hu h
  | tickClaim l =>
    refine portLaw_of_running he h ?_
    split
    · exact h
    · exact h.takeTickClaim l
  | leaseExpiry l => exact portLaw_of_running he h (h.applyLock hu (s.lockUnit.leaseExpiry_ledger l))
  | waitTimeout l p => exact portLaw_of_running he h (h.applyLock hu (s.lockUnit.timeout_ledger l p))
  | issueDecision =>
    refine portLaw_of_running he h ?_
    split
    · exact h.congr rfl rfl rfl
    · exact h
  | issue =>
    refine portLaw_of_running he h ?_
    split
    · obtain ⟨hq, hclass⟩ := State.of_chosenHead ‹_›
      exact h.issueHead hq (by simp [hclass]) none
    · obtain ⟨hq, hclass⟩ := State.of_chosenHead ‹_›
      exact h.issueHead hq (by simp [hclass]) none
    all_goals exact h
  | incrementClaim =>
    refine portLaw_of_running he h ?_
    split
    · obtain ⟨hq, hclass⟩ := State.of_chosenHead ‹_›
      exact h.claimHead hu hq (by simp [hclass]) _ _ _
    all_goals exact h
  | issueSlotFreed =>
    refine portLaw_of_running he h ?_
    split
    · exact h.congr rfl rfl rfl
    all_goals exact h
  | memCompletion session result data =>
    refine portLaw_of_running he h ?_
    split
    · split
      · exact h
      · exact h.complete hu hf ‹_› result data
    · exact h
  | portGoneClaim p =>
    refine portLaw_of_running he h ?_
    split
    · exact h.takeClaim hu hf ‹_›
    · exact h
  | setPort port enable cls limit =>
    refine portLaw_of_command he hl h fun r _ hr => ?_
    split
    · exact (hr.setPortItems _ _ _ limit).finish _ _
    · exact hr.finish _ _
  | setWeight k =>
    refine portLaw_of_command he hl h fun r _ hr => ?_
    split
    · exact hr.congr rfl rfl rfl
    · exact hr.finish _ _
  | resetPort port =>
    refine portLaw_of_command he hl h fun r _ hr => ?_
    split
    · exact hr.finish _ _
    · rename_i p _
      split
      · exact hr.finish _ _
      · exact (hr.portReset p true).congr rfl rfl rfl
      · exact hr.congr rfl rfl rfl
  | defineLock =>
    refine portLaw_of_command he hl h fun r hrl hr => ?_
    split
    · rename_i l q _ _
      obtain ⟨hnew, hchanged⟩ := hr.define hrl l q
      split
      · exact (hnew ‹_›).finish _ _
      · exact hchanged.finish _ _
      all_goals exact hr.finish _ _
    · exact hr.finish _ _
  | undefineLock =>
    refine portLaw_of_command he hl h fun r hrl hr => ?_
    split
    · exact hr.finish _ _
    · split
      · exact hr.finish _ _
      · rename_i hremovable
        split
        · exact hr.finish _ _
        · split
          · exact hr.finish _ _
          · exact (hr.undefine hrl (by simpa using hremovable)).finish _ _
  | forceRelease =>
    refine portLaw_of_command he hl h fun r hrl hr => ?_
    split
    · exact hr.finish _ _
    · split
      · exact hr.forceRevoke hrl.waits _
      · exact hr.forceRevoke hrl.waits _
      all_goals exact hr.finish _ _
  | repairLock =>
    refine portLaw_of_command he hl h fun r hrl hr => ?_
    split
    · exact hr.finish _ _
    · rename_i l _
      split
      · exact hr.finish _ _
      · split
        · exact hr.finish _ _
        · exact (hr.setLock (r := { (r.lockUnit.lock l).stopLease with state := .free }) hrl.waits rfl).finish _ _
  | _ => exact absurd rfl hc

end Sys2Proof.Machine

open Sys2Proof Sys2Proof.Machine

/-- Settles O58: each write of a port's record moves its tags between their places, and the ledger of the lock unit's waits
accounts for the words that other ports' events answer. -/
theorem portLawKept : Obligations.PortLawKept := by
  intro s t hl hf h hstep
  rw [step] at hstep
  split at hstep
  · obtain rfl := Host.Outcome.next.inj hstep
    exact h
  · rename_i c rest _
    exact exec_portLaw (s := { s with pending := rest }) hl hf (h.congr rfl rfl rfl) hstep

end

section
/-! Frames and silence on the agent links (R118 to R126, R133, Table 7-3): what each does by the link state, R124's checks in their
order, and head handling by classification (R127, R128, R130, Table 7-4). -/

namespace Sys2Proof.Machine

/-! ### OPEN, CLOSE, silence and frames sent -/

section
variable {s : State} {p : PortId}

theorem exec_openFrame (hlow : s.resetLow = false) : exec (.openFrame p) s = .next (s.takeOpen p) :=
  congrArg Host.Outcome.next (s.running_of_high _ hlow)

theorem exec_closeFrame (hlow : s.resetLow = false) : exec (.closeFrame p) s = .next (s.takeClose p) :=
  congrArg Host.Outcome.next (s.running_of_high _ hlow)

theorem exec_linkSilence (hlow : s.resetLow = false) : exec (.linkSilence p) s = .next (s.takeSilence p) :=
  congrArg Host.Outcome.next (s.running_of_high _ hlow)

theorem exec_badFrame (hlow : s.resetLow = false) : exec (.badFrame p) s = .next (s.takeBadFrame p) :=
  congrArg Host.Outcome.next (s.running_of_high _ hlow)

theorem exec_frameSent (hlow : s.resetLow = false) : exec (.frameSent p) s = .next (s.setPort p (s.port p).sent) :=
  congrArg Host.Outcome.next (s.running_of_high _ hlow)

/-- An OFFLINE port answers an OPEN by its enable (R120). -/
theorem State.takeOpen_of_offline (hl : (s.port p).link = .offline) : s.takeOpen p =
    if (s.port p).enabled then
      s.setPort p { (s.port p).sendNotice .openAck with link := .online, badCount := 0, receiveCount := 0 }
    else s.setPort p ((s.port p).sendNotice .openNak) := by
  simp only [State.takeOpen, hl]

theorem State.takeOpen_of_online (hl : (s.port p).link = .online) : s.takeOpen p =
    s.setPort p { (s.port p).sendNotice .openAck with badCount := 0, receiveCount := 0 } := by
  simp only [State.takeOpen, hl]

theorem State.takeOpen_of_resetting (hl : (s.port p).link = .resetting) : s.takeOpen p = s := by
  simp only [State.takeOpen, hl]

theorem State.takeClose_of_offline (hl : (s.port p).link = .offline) :
    s.takeClose p = s.setPort p ((s.port p).sendNotice .close) := by
  rw [State.takeClose, hl]

theorem State.takeClose_of_online (hl : (s.port p).link = .online) : s.takeClose p = s.portReset p true := by
  rw [State.takeClose, hl]

theorem State.takeClose_of_resetting (hl : (s.port p).link = .resetting) : s.takeClose p = s := by
  rw [State.takeClose, hl]

theorem State.takeSilence_of_online (hl : (s.port p).link = .online) : s.takeSilence p = s.linkLoss p := by
  rw [State.takeSilence, hl]

theorem State.takeSilence_of_other (hl : (s.port p).link ≠ .online) : s.takeSilence p = s := by
  rw [State.takeSilence]
  split
  · exact absurd ‹_› hl
  · rfl
  · rfl

/-- Link loss is a port reset without NOTICE CLOSE and one LINK record (R123). -/
theorem State.linkLoss_spec (s : State) (p : PortId) : PortResetDone s (s.linkLoss p) p false ∧
    (s.linkLoss p).reports = s.reports ++ [⟨.port p, [{ cls := .link, port := some p }]⟩] ∧
      (s.linkLoss p).supervisor = s.supervisor := by
  obtain ⟨hreset, hreports, hsup⟩ := (s.report (.port p) [{ cls := .link, port := some p }]).portReset_spec p false
  exact ⟨hreset, hreports, hsup⟩

/-! ### Bad frames -/

/-- The record of an ONLINE port after a bad frame, before any link loss (R122). -/
def PortRecord.badFrame (r : PortRecord) : PortRecord :=
  ({ r with receiveCount := r.receiveCount + 1, badCount := r.badCount + 1 } : PortRecord).sendNotice
    (.resend (r.receiveCount + 1))

theorem State.takeBadFrame_of_offline (hl : (s.port p).link = .offline) :
    s.takeBadFrame p = s.setPort p ((s.port p).sendNotice (.resend 0)) := by
  simp only [State.takeBadFrame, hl]

theorem State.takeBadFrame_of_resetting (hl : (s.port p).link = .resetting) : s.takeBadFrame p = s := by
  simp only [State.takeBadFrame, hl]

theorem State.takeBadFrame_of_online (hl : (s.port p).link = .online) : s.takeBadFrame p =
    if 8 ≤ (s.port p).badCount + 1 then (s.setPort p (s.port p).badFrame).linkLoss p
    else s.setPort p (s.port p).badFrame := by
  rw [State.takeBadFrame]
  dsimp only
  split
  · exact absurd (hl.symm.trans ‹_›) (by simp)
  · exact absurd (hl.symm.trans ‹_›) (by simp)
  · rfl

/-! ### REQUEST -/

variable {kind : BitVec 4} {tag : Tag} {size : Byte} {addr : Word} {data : List Byte}

/-- A REQUEST of another length is a bad frame (R118). -/
theorem exec_request_of_badLength (hg : requestLengthGood kind size data = false) :
    exec (.request p kind tag size addr data) s = exec (.badFrame p) s := by
  show execRequest p kind tag size addr data s = execBadFrame p s
  simp only [execRequest, execBadFrame, hg]
  rfl

theorem exec_request (hlow : s.resetLow = false) (hg : requestLengthGood kind size data = true) :
    exec (.request p kind tag size addr data) s = .next (s.takeRequest p kind tag size addr data) :=
  congrArg Host.Outcome.next ((s.running_of_high _ hlow).trans (if_pos hg))

/-- A refusal writes one NOTICE and reports one LINK fault (R124, R125). -/
theorem State.refuseRequest_eq (s : State) (p : PortId) (tag : Tag) (addr : Word) (reason : ProtocolReason) :
    s.refuseRequest p tag addr reason = { s.setPort p ((s.port p).sendNotice (.protocol tag reason)) with
      reports := s.reports ++ [⟨.port p, [{ cls := .link, port := some p, tag := some tag, addr := some addr }]⟩] } := by
  rw [State.refuseRequest, State.report_eq]
  rfl

theorem State.takeRequest_of_offline (hl : (s.port p).link = .offline) :
    s.takeRequest p kind tag size addr data = s.refuseRequest p tag addr .notOpen := by
  rw [State.takeRequest, hl]

theorem State.takeRequest_of_resetting (hl : (s.port p).link = .resetting) :
    s.takeRequest p kind tag size addr data = s := by
  rw [State.takeRequest, hl]

/-- The first check that applies at an ONLINE port gives the reason (R124). -/
theorem State.takeRequest_of_error (hl : (s.port p).link = .online) {reason : ProtocolReason}
    (hc : (s.port p).checkRequest kind tag size addr data = .error reason) :
    s.takeRequest p kind tag size addr data = (s.setPort p (s.port p).goodFrame).refuseRequest p tag addr reason := by
  simp only [State.takeRequest, hl, hc]

theorem State.takeRequest_of_ok (hl : (s.port p).link = .online) {q : Request}
    (hc : (s.port p).checkRequest kind tag size addr data = .ok q) :
    s.takeRequest p kind tag size addr data = (s.setPort p (s.port p).goodFrame).acceptRequest p q := by
  simp only [State.takeRequest, hl, hc]

theorem reqKindOf_eq_none (hk : kind ≠ 1#4 ∧ kind ≠ 2#4) : reqKindOf kind = none := by
  exact (if_neg hk.1).trans (if_neg hk.2)

theorem reqKindOf_eq_some (hk : kind = 1#4 ∨ kind = 2#4) : ∃ k, reqKindOf kind = some k := by
  rcases hk with rfl | rfl
  · exact ⟨.read, rfl⟩
  · exact ⟨.write, rfl⟩

/-- The kind field of a READ or a WRITE (Table 7-2). -/
def ReqKind.field (k : ReqKind) : BitVec 4 :=
  match k with
  | .read => 1#4
  | .write => 2#4

theorem reqKindOf_field (k : ReqKind) : reqKindOf k.field = some k := by
  cases k <;> rfl

/-- A READ without data and a WRITE with as many bytes as its size have the length of Table 7-2 (R118). -/
theorem requestLengthGood_field {k : ReqKind} {n : Nat} (hs : sizeBytes size = some n)
    (hd : match k with | .read => data = [] | .write => data.length = n) : requestLengthGood k.field size data = true := by
  rw [requestLengthGood, hs]
  cases k with
  | read => exact List.isEmpty_iff.2 hd
  | write => exact beq_iff_eq.2 hd

/-- Size codes above 4 name no size (Table 7-2). -/
theorem sizeBytes_eq_none (hs : 4 < size.toNat) : sizeBytes size = none := by
  rw [sizeBytes]
  split
  · omega
  · omega
  · omega
  · omega
  · omega
  · rfl

variable {r : PortRecord} {k : ReqKind} {n : Nat}

theorem PortRecord.checkRequest_badKind (hk : reqKindOf kind = none) :
    r.checkRequest kind tag size addr data = .error .badKind := by
  rw [PortRecord.checkRequest, hk]

theorem PortRecord.checkRequest_badSize (hk : reqKindOf kind = some k) (hs : sizeBytes size = none) :
    r.checkRequest kind tag size addr data = .error .badSize := by
  simp only [PortRecord.checkRequest, hk, hs]

theorem PortRecord.checkRequest_unaligned (hk : reqKindOf kind = some k) (hs : sizeBytes size = some n)
    (ha : addr.toNat % n ≠ 0) : r.checkRequest kind tag size addr data = .error .unaligned := by
  simp only [PortRecord.checkRequest, hk, hs, if_pos ha]

theorem PortRecord.checkRequest_tagInUse (hk : reqKindOf kind = some k) (hs : sizeBytes size = some n)
    (ha : addr.toNat % n = 0) (ht : r.hasTag tag = true) :
    r.checkRequest kind tag size addr data = .error .tagInUse := by
  simp only [PortRecord.checkRequest, hk, hs, if_neg (not_not.2 ha), if_pos ht]

theorem PortRecord.checkRequest_ok (hk : reqKindOf kind = some k) (hs : sizeBytes size = some n)
    (ha : addr.toNat % n = 0) (ht : r.hasTag tag = false) : r.checkRequest kind tag size addr data =
      .ok { tag := tag, kind := k, size := n, addr := addr, data := data } := by
  simp only [PortRecord.checkRequest, hk, hs, if_neg (not_not.2 ha), ht]
  rfl

end

/-! ### Head handling -/

section
variable {s : State} {p : PortId}

/-- A port whose head waits, or whose operation is still to be taken, is left alone (R128). -/
theorem State.headRun_of_waiting (h : (s.port p).headClass ≠ none ∨ (s.port p).handed ≠ none) : s.headRun p =
    { queue := (s.port p).queue, headClass := (s.port p).headClass, handed := (s.port p).handed, frames := [],
      faults := [] } := by
  refine if_neg fun hmay => ?_
  obtain ⟨hclass, hhanded⟩ := (s.port p).mayClassify_iff.1 hmay
  exact h.elim (fun hn => hn hclass) fun hn => hn hhanded

/-- An unclassified head is handled (R127). -/
theorem State.headRun_of_free (hc : (s.port p).headClass = none) (hh : (s.port p).handed = none) :
    s.headRun p = s.runHeads p (s.port p).writeFlight (s.port p).queue :=
  if_pos ((s.port p).mayClassify_iff.2 ⟨hc, hh⟩)

/-- With nothing to handle, head handling changes nothing. -/
theorem State.advance_of_waiting (h : (s.port p).headClass ≠ none ∨ (s.port p).handed ≠ none) : s.advance p [] = s := by
  rw [State.advance, State.headRun_of_waiting h]
  simp only [State.formFrames, List.append_nil, arrange_nil, State.report_nil, State.port_setPort_self,
    State.setPort_setPort]
  exact s.setPort_port p

theorem LockOpKind.fenced_iff (k : LockOpKind) : k.fenced = true ↔ k = .release ∨ k = .releaseLatest := by
  simp [LockOpKind.fenced]

variable {q : Request} {qs : List Request} {n : Nat}

theorem State.runHeads_of_plain (h : s.classify p q = .plain) :
    s.runHeads p n (q :: qs) = waitingHead (q :: qs) .plain [] := by
  rw [State.runHeads, h]

theorem State.runHeads_of_guardAuthorized {l : LockId} {w : WindowId} {k : WritePolicy}
    (h : s.classify p q = .guardAuthorized l w k) :
    s.runHeads p n (q :: qs) = waitingHead (q :: qs) (.guardAuthorized l w k) [] := by
  rw [State.runHeads, h]

theorem State.runHeads_of_guardPassed {f : FaultInfo} (h : s.classify p q = .guardPassed f) :
    s.runHeads p n (q :: qs) = waitingHead (q :: qs) .guardPassed [f] := by
  rw [State.runHeads, h]

/-- A BLOCKED head leaves, and the next one is classified (R98, R127). -/
theorem State.runHeads_of_blocked {f : FaultInfo} (h : s.classify p q = .blocked f) : s.runHeads p n (q :: qs) =
    { s.runHeads p n qs with
      frames := blockedResponse q.tag :: (s.runHeads p n qs).frames, faults := f :: (s.runHeads p n qs).faults } := by
  rw [State.runHeads, h]

theorem State.runHeads_of_misuse {op : LockOp} (h : s.classify p q = .misuse op) :
    s.runHeads p n (q :: qs) = handedHead qs op := by
  rw [State.runHeads, h]

/-- A RELEASE or RELEASE-LATEST waits at the fence while writes of the port are in flight (R130). -/
theorem State.runHeads_of_lockOp {op : LockOp} (h : s.classify p q = .lockOp op) : s.runHeads p n (q :: qs) =
    if (op.kind = .release ∨ op.kind = .releaseLatest) ∧ n ≠ 0 then waitingHead (q :: qs) (.heldRelease op) []
    else handedHead qs op := by
  have hfence : (op.kind.fenced && n != 0) = true ↔ (op.kind = .release ∨ op.kind = .releaseLatest) ∧ n ≠ 0 := by
    rw [Bool.and_eq_true, LockOpKind.fenced_iff, bne_iff_ne]
  rw [State.runHeads, h]
  exact if_congr hfence rfl rfl

/-- What stands behind the head is handled as if it were the whole queue (R127). -/
theorem State.headRun_behind (hc : (s.port p).headClass = none) (hh : (s.port p).handed = none) :
    (s.setPort p { s.port p with queue := qs }).headRun p = s.runHeads p (s.port p).writeFlight qs := by
  rw [State.headRun_of_free (by rwa [State.port_setPort_self]) (by rwa [State.port_setPort_self]),
    State.runHeads_setPort, State.port_setPort_self]

end

end Sys2Proof.Machine

open Sys2Proof Sys2Proof.Machine

/-- Settles O6: the link state decides, and at OFFLINE the enable. -/
theorem openByLinkState : Obligations.OpenByLinkState := by
  intro p s hlow
  rw [exec_openFrame hlow]
  refine ⟨fun hl he => ?_, fun hl he => ?_, fun hl => ?_, fun hl => ?_⟩
  · rw [State.takeOpen_of_offline hl, if_pos he]
  · rw [State.takeOpen_of_offline hl, if_neg (by simp [he])]
  · rw [State.takeOpen_of_online hl]
  · rw [State.takeOpen_of_resetting hl]

/-- Settles O7: at an ONLINE port the effect is that of `State.portReset`, for silence after a LINK record. -/
theorem closeAndSilence : Obligations.CloseAndSilence := by
  refine ⟨fun p s hlow => ?_, fun p s hlow => ?_⟩
  · rw [exec_closeFrame hlow]
    refine ⟨fun hl => ?_, fun hl => ⟨_, rfl, ?_⟩, fun hl => ?_⟩
    · rw [State.takeClose_of_offline hl]
    · rw [State.takeClose_of_online hl]
      exact s.portReset_spec p true
    · rw [State.takeClose_of_resetting hl]
  · rw [exec_linkSilence hlow]
    refine ⟨fun hl => ⟨_, rfl, ?_⟩, fun hl => ?_⟩
    · rw [State.takeSilence_of_online hl]
      exact s.linkLoss_spec p
    · rw [State.takeSilence_of_other hl]

/-- Settles O8: below the limit the count is all, and at the limit the counted port loses its link. -/
theorem badFrameIsCounted : Obligations.BadFrameIsCounted := by
  refine ⟨fun r n => rfl, ?_⟩
  intro p s hlow counted
  rw [exec_badFrame hlow]
  refine ⟨fun hl => ?_, fun hl => ?_, fun hl hfew => ?_, fun hl hmany => ⟨_, rfl, ?_⟩⟩
  · rw [State.takeBadFrame_of_offline hl]
  · rw [State.takeBadFrame_of_resetting hl]
  · rw [State.takeBadFrame_of_online hl, if_neg (Nat.not_le_of_lt hfew)]
    rfl
  · rw [State.takeBadFrame_of_online hl, if_pos hmany]
    obtain ⟨hreset, hreports, hsup⟩ := State.linkLoss_spec (s.setPort p (s.port p).badFrame) p
    exact ⟨hreset, hsup, hreports⟩

/-- Settles O9. -/
theorem requestAtOfflinePort : Obligations.RequestAtOfflinePort := by
  intro p kind tag size addr data s hlow hg hl
  rw [exec_request hlow hg, State.takeRequest_of_offline hl, State.refuseRequest_eq]

/-- Settles O10: the checks are made one after another, and each refusal comes after the frame has counted as received. -/
theorem requestRefusedInOrder : Obligations.RequestRefusedInOrder := by
  intro p kind tag size addr data s hlow c received refused
  refine ⟨exec_request_of_badLength, fun hg hl => ?_, fun hg hl => ?_⟩
  · rw [exec_request hlow hg, State.takeRequest_of_resetting hl]
  have herror : ∀ reason, (s.port p).checkRequest kind tag size addr data = .error reason → exec c s = .next (refused reason) := by
    intro reason hc
    rw [exec_request hlow hg, State.takeRequest_of_error hl hc, State.refuseRequest_eq, State.port_setPort_self,
      State.setPort_setPort]
    rfl
  refine ⟨fun hk => herror _ (PortRecord.checkRequest_badKind (reqKindOf_eq_none hk)), fun hk hs => ?_, fun hk n hs => ?_⟩
  · obtain ⟨k, hk⟩ := reqKindOf_eq_some hk
    exact herror _ (PortRecord.checkRequest_badSize hk (sizeBytes_eq_none hs))
  · obtain ⟨k, hk⟩ := reqKindOf_eq_some hk
    exact ⟨fun ha => herror _ (PortRecord.checkRequest_unaligned hk hs ha),
      fun ha ht => herror _ (PortRecord.checkRequest_tagInUse hk hs ha ht)⟩

/-- Settles O11: an accepted request is written into its port before the heads are handled, and a port that waits has none to
handle. -/
theorem requestAccepted : Obligations.RequestAccepted := by
  intro p k tag size n addr data s hlow hl hs ha hd ht c joined
  have haccepted : exec c s = .next (joined.advance p []) := by
    show exec (.request p k.field tag size addr data) s = _
    rw [exec_request hlow (requestLengthGood_field hs hd),
      State.takeRequest_of_ok hl (PortRecord.checkRequest_ok (reqKindOf_field k) hs ha ht), State.acceptRequest,
      State.port_setPort_self, State.setPort_setPort]
    rfl
  refine ⟨haccepted, fun hwait => ?_⟩
  rw [haccepted, State.advance_of_waiting]
  rwa [State.port_setPort_self]

/-- Settles O12: each classification has its one row of Table 7-4, and a BLOCKED head uncovers the queue behind it. -/
theorem headHandlingOfAPort : Obligations.HeadHandlingOfAPort := by
  refine ⟨?_, fun p own s => s.advance_writes p own⟩
  intro p s r
  refine ⟨State.headRun_of_waiting, fun hc hh => ?_⟩
  have hrun := State.headRun_of_free hc hh
  refine ⟨fun hq => ?_, ?_⟩
  · rw [hrun, hq, State.runHeads]
  · intro q qs hq behind waits goes
    rw [hrun, hq]
    refine ⟨State.runHeads_of_plain, fun l w k => State.runHeads_of_guardAuthorized,
      fun f => State.runHeads_of_guardPassed, fun f hf => ?_, fun op => State.runHeads_of_misuse,
      fun op => State.runHeads_of_lockOp⟩
    rw [State.runHeads_of_blocked hf, ← State.headRun_behind hc hh]
    rfl

/-- Settles O15: the oldest frame decides. -/
theorem frameSentLeavesList : Obligations.FrameSentLeavesList := by
  intro p s hlow
  rw [exec_frameSent hlow]
  refine ⟨fun hs => ?_, fun n fs hs => ?_, fun tag result data fs hs => ?_⟩
  · simp only [PortRecord.sent, hs, State.setPort_port]
  · simp only [PortRecord.sent, hs]
  · simp only [PortRecord.sent, hs]
    rfl

end

section
/-! Issue and completion of requests without a guard lock (R129, R130, R142, R145 to R147), and SET_PORT (R135, R178). -/

namespace Sys2Proof.Machine

/-! ### Issue -/

section
variable {s : State} {p : PortId} {q : Request}

theorem exec_issue (hlow : s.resetLow = false)
    (h : s.chosenHead = some (p, q, .plain) ∨ s.chosenHead = some (p, q, .guardPassed)) :
    exec .issue s = .next (s.issueHead p q none) := by
  refine congrArg Host.Outcome.next ((s.running_of_high _ hlow).trans ?_)
  rcases h with h | h
  · rw [h]
  · rw [h]

/-- The port after the issue of a read, the head of its queue (R129). -/
theorem PortRecord.issued_of_read {r : PortRecord} {qs : List Request} (hq : r.queue = q :: qs) (hk : q.kind = .read) :
    r.issued q = { r with queue := qs, headClass := none, flight := r.flight + 1 } := by
  rw [PortRecord.issued, hq, hk]
  rfl

/-- A read is answered when its data comes back, not when it is issued (R142). -/
theorem State.issueHead_of_read {qs : List Request} (hq : (s.port p).queue = q :: qs) (hk : q.kind = .read)
    (guard : Option LockId) : s.issueHead p q guard = State.advance
      { s.setPort p { s.port p with queue := qs, headClass := none, flight := (s.port p).flight + 1 } with
        memPort := { s.memPort with table := s.memPort.table ++
          [{ port := p, tag := some q.tag, kind := .read, size := q.size, addr := q.addr, guard := guard }] }
        arbiter := { s.arbiter with slot := .sending ⟨.read, q.size, q.addr, q.data⟩ } }
      p [] := by
  rw [State.issueHead, PortRecord.issued_of_read hq hk, issueFrames, hk]
  rfl

/-- The slot becomes free when the last byte has been sent (R142). -/
theorem exec_issueSlotFreed {r : MemRequest} (hlow : s.resetLow = false) (h : s.arbiter.slot = .sending r) :
    exec .issueSlotFreed s = .next { s with arbiter := { s.arbiter with slot := .free } } := by
  refine congrArg Host.Outcome.next ((s.running_of_high _ hlow).trans ?_)
  rw [h]

end

/-! ### Completions -/

section
variable {s : State} {e : FlightEntry} {rest : List FlightEntry} (result : MemResult) (data : List Byte)

/-- A completion of another session, or one that finds the table empty, is discarded (R145, R149). -/
theorem exec_memCompletion_of_none {n : Nat} (hlow : s.resetLow = false)
    (h : n ≠ s.memPort.session ∨ s.memPort.table = []) : exec (.memCompletion n result data) s = .next s := by
  refine congrArg Host.Outcome.next ((s.running_of_high _ hlow).trans ?_)
  split
  · rename_i hn
    rw [h.resolve_left (not_not_intro hn)]
  · rfl

theorem exec_memCompletion (hlow : s.resetLow = false) (ht : s.memPort.table = e :: rest) :
    exec (.memCompletion s.memPort.session result data) s = .next (s.complete e rest result data) := by
  refine congrArg Host.Outcome.next ((s.running_of_high _ hlow).trans ?_)
  rw [if_pos rfl, ht]

/-- A read completes well when its result is OK with exactly its bytes (R145). -/
theorem FlightEntry.fails_of_read (hk : e.kind = .read) :
    e.fails result data = true ↔ ¬(result = .ok ∧ data.length = e.size) := by
  cases result with
  | fail => simp [FlightEntry.fails]
  | ok => simp [FlightEntry.fails, hk]

/-- At most one frame is formed in one order only. -/
theorem arrange_readFrames (draw : Nat) (failed : Bool) : arrange draw (readFrames e failed data) = (readFrames e failed data, draw) := by
  rw [readFrames]
  split <;> rfl

/-- The completion of a read writes its port, reports a failure, and may end RESETTING (R146, R153). -/
theorem State.complete_of_read (hk : e.kind = .read) : s.complete e rest result data = State.endReset
    { s.setPort e.port { s.port e.port with
        flight := (s.port e.port).flight - 1,
        sendList := (s.port e.port).sendList ++ readFrames e (e.fails result data) data } with
      memPort := { s.memPort with table := rest }
      reports := s.reports ++ if e.fails result data then [⟨.memPort, [memFault .memRead e]⟩] else [] } e.port := by
  rw [State.complete, hk]
  dsimp only
  rw [State.completeRead, State.formFrames, arrange_readFrames, State.report_eq, State.port_setPort_self,
    State.setPort_setPort]
  cases e.fails result data <;> rfl

/-- The completion of an uncounted write writes its port, reports a failure, and may end RESETTING (R147, R130, R153). -/
theorem State.complete_of_write (hk : e.kind = .write) (hg : e.guard = none) :
    s.complete e rest result data = State.endReset
    { s.setPort e.port ((s.port e.port).completed .write).openFence with
      memPort := { s.memPort with table := rest }
      reports := s.reports ++ match result with
        | .ok => []
        | .fail => [⟨.memPort, [memFault .memWrite e]⟩] } e.port := by
  rw [State.complete, hk]
  dsimp only
  rw [State.completeWrite, hg, FlightEntry.fails_of_write hk]
  dsimp only
  rw [State.completeAtPort, State.report_eq]
  cases result <;> rfl

end

/-! ### SET_PORT -/

section
variable {s : State} {port enable cls : Byte} {limit : BitVec 16}

theorem execSetPort_badParam (hr : s.ready) (h : 5 < port.toNat ∨ 1 < enable.toNat ∨ 1 < cls.toNat) :
    execSetPort port enable cls limit s = .next (s.answered .badParam []) := by
  rw [execSetPort, s.command_of_ready _ hr]
  split
  · rename_i p e c hp he hc
    rw [portOf_eq_some] at hp
    rw [enableOf_eq] at he
    rw [classOf_eq] at hc
    split at he
    · split at hc
      · omega
      · cases hc
    · cases he
  · rfl

/-- With its numbers in range SET_PORT writes the three items (R135, R178). -/
theorem execSetPort_items (hr : s.ready) {p : PortId} (hp : p.val = port.toNat) (he : enable.toNat ≤ 1)
    (hc : cls.toNat ≤ 1) : execSetPort port enable cls limit s = .next (((s.acknowledge true).setPortItems p (enable == 1)
      (if cls = 0 then .fore else .back) limit).finish .done []) := by
  rw [execSetPort, s.command_of_ready _ hr, portOf_eq_some.2 hp, enableOf_eq, if_pos he, classOf_eq, if_pos hc]

variable {p : PortId} {enabled : Bool} {c : PortClass}

theorem State.setPortItems_of_kept (h : (s.port p).link ≠ .online ∨ enabled = true) : s.setPortItems p enabled c limit =
    s.setPort p { s.port p with enabled := enabled, cls := c, waitLimit := limit } := by
  refine if_neg fun hd => ?_
  obtain ⟨hl, he⟩ := hd
  exact h.elim (fun hn => hn hl) fun ht => Bool.false_ne_true (he.symm.trans ht)

theorem State.setPortItems_of_disabled (hl : (s.port p).link = .online) : s.setPortItems p false c limit =
    (s.setPort p { s.port p with enabled := false, cls := c, waitLimit := limit }).portReset p true :=
  if_pos ⟨hl, rfl⟩

end

end Sys2Proof.Machine

open Sys2Proof Sys2Proof.Machine

/-- Settles O35: the issue is the same for both classes, and the kind gives its frame and count. -/
theorem issueOfUnguardedHead : Obligations.IssueOfUnguardedHead := by
  refine ⟨fun p q qs s hlow hslot hq hc => ?_, fun r s => exec_issueSlotFreed⟩
  rw [exec_issue hlow (hc.imp (State.chosenHead_of_chosen hslot hq) (State.chosenHead_of_chosen hslot hq))]
  cases hk : q.kind with
  | read => exact congrArg Host.Outcome.next (State.issueHead_of_read hq hk none)
  | write => exact congrArg Host.Outcome.next (State.issueHead_of_write hq hk none)

/-- Settles O37: the oldest entry's kind gives the completion, and the fence tries the counted record. -/
theorem unguardedCompletions : Obligations.UnguardedCompletions := by
  refine ⟨⟨fun n result data s hlow h => exec_memCompletion_of_none result data hlow h, ?_⟩, ?_⟩
  · intro e rest result data s hlow ht hk good frames
    have hfails := FlightEntry.fails_of_read result data hk
    rw [exec_memCompletion result data hlow ht, State.complete_of_read result data hk]
    by_cases hgood : good
    · have hf : e.fails result data = false := Bool.eq_false_iff.2 fun h => hfails.1 h hgood
      have hframes : frames = readFrames e false data := by
        simp only [frames, readFrames, if_pos hgood]
        rfl
      rw [hf, hframes, if_pos hgood]
      rfl
    · have hf : e.fails result data = true := hfails.2 hgood
      have hframes : frames = readFrames e true data := by
        simp only [frames, readFrames, if_neg hgood]
        rfl
      rw [hf, hframes, if_neg hgood]
      rfl
  · intro e rest result data s hlow ht hk hg counted done
    have hdone : ∀ r, counted.openFence = r →
        exec (.memCompletion s.memPort.session result data) s = .next (done r) := by
      rintro _ rfl
      rw [exec_memCompletion result data hlow ht, State.complete_of_write result data hk hg]
      cases result <;> rfl
    exact ⟨fun op hc hw => hdone _ (PortRecord.openFence_of_open hc hw),
      fun h => hdone _ (PortRecord.openFence_of_shut h)⟩

/-- Settles O44: the numbers are read first, and then only an ONLINE port that is disabled is reset. -/
theorem setPortWritesItems : Obligations.SetPortWritesItems := by
  intro port enable cls limit s hr c
  refine ⟨execSetPort_badParam hr, ?_⟩
  intro p hp he hc written
  have hitems : exec c s = .next (((s.acknowledge true).setPortItems p (enable == 1) (if cls = 0 then .fore else .back)
      limit).finish .done []) := execSetPort_items hr hp he hc
  refine ⟨fun h => ?_, fun hl hd => ?_⟩
  · rw [hitems, State.setPortItems_of_kept (s := s.acknowledge true) (h.imp_right beq_iff_eq.2)]
    rfl
  · subst hd
    obtain ⟨hreset, hreports, -⟩ := written.portReset_spec p true
    refine ⟨_, hitems, ?_⟩
    rw [show ((0 : Byte) == 1) = false from rfl, State.setPortItems_of_disabled (s := s.acknowledge true) hl]
    exact ⟨hreset, hreports, rfl⟩

end

section
/-! Agent frames (R118, Table 7-2): the check byte behind a frame's bytes, the commands that good frames carry, and the bytes of the
frames that the part sends. -/

namespace Sys2Proof.Machine

/-! ### The check byte -/

theorem withCheck_getLast (body : List Byte) : (withCheck body).getLast? = some (crc8 (withCheck body).dropLast) := by
  simp [withCheck]

theorem withCheck_dropLast (body : List Byte) : (withCheck body).dropLast = body := by
  simp [withCheck]

theorem linkFrame_open (p : PortId) : linkFrame p (withCheck [0x11#8]) = .openFrame p := by
  rw [linkFrame, if_pos (withCheck_getLast _), withCheck_dropLast]
  exact if_pos rfl

theorem linkFrame_close (p : PortId) : linkFrame p (withCheck [0x12#8]) = .closeFrame p := by
  rw [linkFrame, if_pos (withCheck_getLast _), withCheck_dropLast]
  exact (if_neg (by decide)).trans (if_pos rfl)

/-- A frame whose check byte is wrong is a bad frame (R118). -/
theorem linkFrame_of_badCheck (p : PortId) {body : List Byte} {check : Byte} (h : check ≠ crc8 body) :
    linkFrame p (body ++ [check]) = .badFrame p := by
  rw [linkFrame, if_neg]
  simpa using h

/-! ### Frames of an agent -/

/-- The byte of kind and tag is read back into both (Table 7-2). -/
theorem kindTag_fields (kind : BitVec 4) (tag : Tag) :
    (kind ++ BitVec.ofFin (w := 4) tag : Byte).extractLsb' 4 4 = kind ∧
      ((kind ++ BitVec.ofFin (w := 4) tag : Byte).extractLsb' 0 4).toFin = tag := by
  have htag : (kind ++ BitVec.ofFin (w := 4) tag : Byte).extractLsb' 0 4 = BitVec.ofFin (w := 4) tag := by
    simp (disch := decide) only [BitVec.extractLsb'_append_eq_of_add_le, BitVec.extractLsb'_eq_self]
  refine ⟨?_, congrArg BitVec.toFin htag⟩
  simp (disch := decide) only [BitVec.extractLsb'_append_eq_of_le, Nat.reduceSub, BitVec.extractLsb'_eq_self]

/-- A REQUEST of a good length is read back with every field. -/
theorem linkFrame_requestFrame (p : PortId) {kind : BitVec 4} (tag : Tag) {size : Byte} (addr : Word) {data : List Byte}
    (hg : requestLengthGood kind size data = true) :
    linkFrame p (requestFrame kind tag size addr data) = .request p kind tag size addr data := by
  obtain ⟨hkind, htag⟩ := kindTag_fields kind tag
  rw [linkFrame, requestFrame, if_pos (withCheck_getLast _), withCheck_dropLast]
  simp only [bytes32, List.cons_append, List.nil_append]
  rw [hkind, htag, field32_bytes, if_pos ⟨trivial, hg⟩]

/-! ### Frames of the part -/

/-- Two numbers of four bits in one byte, the second in the low bits. -/
theorem nibbles_eq_byteOf (high : Nat) {low : Nat} (h : low < 16) :
    (BitVec.ofNat 4 high ++ BitVec.ofNat 4 low : Byte) = byteOf (low + 16 * high) := by
  apply BitVec.eq_of_toNat_eq
  rw [BitVec.toNat_append, BitVec.toNat_ofNat, BitVec.toNat_ofNat, byteOf, BitVec.toNat_ofNat, Nat.mod_eq_of_lt h,
    ← Nat.shiftLeft_add_eq_or_of_lt h, Nat.shiftLeft_eq]
  omega

/-- The bytes of a frame before its check byte (Table 7-2). -/
def Frame.body (f : Frame) : List Byte :=
  match f with
  | .response tag result data => [0x20, byteOf (tag.val + 16 * result.code), byteOf data.length] ++ data
  | .notice n => 0x21 :: n.bytes

theorem Frame.bytes_eq (f : Frame) : f.bytes = f.body ++ [crc8 f.body] := by
  cases f with
  | response tag result data =>
    rw [Frame.bytes, nibbles_eq_byteOf _ tag.isLt]
    rfl
  | notice n => rfl

theorem Notice.bytes_protocol (tag : Tag) (reason : ProtocolReason) :
    (Notice.protocol tag reason).bytes = [0x2, byteOf (tag.val + 16 * reason.code)] := by
  rw [Notice.bytes, nibbles_eq_byteOf _ tag.isLt]

end Sys2Proof.Machine

open Sys2Proof Sys2Proof.Machine

/-- Settles O52: the type and the length of a frame with a good check byte say which command it carries. -/
theorem linkFramesRoundTrip : Obligations.LinkFramesRoundTrip := by
  refine ⟨fun p c bytes hwf hbytes hport => ?_, fun p body check => linkFrame_of_badCheck p,
    fun f => ⟨f.body, f.bytes_eq, ?_⟩, rfl, rfl, rfl, rfl, rfl, rfl, rfl, rfl⟩
  · cases c with
    | openFrame x =>
      obtain rfl := hport
      obtain rfl := Option.some.inj hbytes
      exact linkFrame_open x
    | closeFrame x =>
      obtain rfl := hport
      obtain rfl := Option.some.inj hbytes
      exact linkFrame_close x
    | request x kind tag size addr data =>
      obtain rfl := hport
      obtain rfl := Option.some.inj hbytes
      exact linkFrame_requestFrame x tag addr hwf
    | _ => exact hport.elim
  · cases f with
    | response tag result data => rfl
    | notice n =>
      cases n with
      | protocol tag reason => rw [Frame.body, Notice.bytes_protocol]
      | resend | openAck | openNak | close => rfl

end
